-- ==== Sys2Proof/Word.lean ====
section
/-! DEFINITION. The widths of the block: the byte that a slot, a cursor, an event's value and a response hold
(spec/00_scope.md R6, `DATA_WIDTH` and `ADDR_WIDTH`), the 10-bit event word (spec/30_encoding.md R52) and the 7-bit bus
address (spec/10_state.md R19). Every value is unsigned (R8). -/

namespace Sys2Proof

/-- One byte: a slot's contents, a cursor, an event's value, a response (spec/00_scope.md R6). -/
abbrev Byte := BitVec 8

/-- The 10-bit word that carries one event (spec/30_encoding.md R52). -/
abbrev EventWord := BitVec 10

/-- The 7-bit bus address a slave is bound to (spec/10_state.md R19). -/
abbrev BusAddr := BitVec 7

end Sys2Proof
end

