-- ==== Sys2Proof/Config.lean ====
section
/-! DEFINITION. The parameters of the block (spec/00_scope.md R6) and of the master (R7). An OPEN parameter that State.reset
needs is an opaque constant: nothing in Lean can prove a value of it, so a claim holds for every value the implementation
may choose. `FINISH_ON_RESTART` and the driver's own parameters are arguments where they are used
(Machine/Transport.lean, Machine/Driver.lean). -/

namespace Sys2Proof.Config

/-- `MEM_INIT`: the contents of the 256 slots after initialization, "initial value implementation-defined"
(spec/10_state.md R25, spec/92_eei_decisions.md D6). DESIGN CHOICE, safe [log 1]: an opaque constant. -/
opaque memInit : Byte → Byte

/-- `SLAVE_ADDR`: the bus address given to `bind` (spec/10_state.md R19, R25, spec/92_eei_decisions.md D9). DESIGN CHOICE,
safe [log 2]: an opaque constant. -/
opaque slaveAddr : BusAddr

/-- `CURSOR_INIT`: 0 (spec/00_scope.md R6, spec/92_eei_decisions.md D7). DEDUCED, unsafe [log 4]. -/
def cursorInit : Byte := 0

/-- `LATCH_INIT`: false, the state `AwaitingAddress` (spec/00_scope.md R6). -/
def latchInit : Bool := false

/-- `MEM_SIZE`: the number of byte slots (spec/00_scope.md R6). -/
def memSize : Nat := 256

/-- The example value of `SLAVE_ADDR` (spec/10_state.md R19). No rule depends on it. -/
def exampleSlaveAddr : BusAddr := 0x17

/-- `OFFSET_STEP`: the advance of the driver's address offset per iteration (spec/00_scope.md R7). -/
def offsetStep : Byte := 32

end Sys2Proof.Config
end

