-- ==== Sys2Proof/Syntax.lean ====
section
/-! DEFINITION. The operations of the block, one constructor per row of spec/opcode_table.json (spec/30_encoding.md R61). -/

namespace Sys2Proof

/-- The four operations (spec/30_encoding.md R61). An operation is an event together with the behaviour that the mode bit
`latched` selects for it (R56). -/
inductive Instr where
  /-- `RECV.ADDR`: `ByteReceived(v)` while `latched = false`, the address byte (spec/40_receive.md R70). -/
  | recvAddr (v : Byte)
  /-- `RECV.DATA`: `ByteReceived(v)` while `latched = true`, a data byte (spec/40_receive.md R71). -/
  | recvData (v : Byte)
  /-- `REQ`: `ByteRequested()` (spec/41_request.md R80). -/
  | req
  /-- `FIN`: `Finished()` (spec/42_finish.md R85). -/
  | fin
deriving DecidableEq, Repr

end Sys2Proof
end

