-- ==== Sys2Proof/WellFormed.lean ====
section
/-! DEFINITION. The two checks on what is handed to the block: an operation agrees with the mode bit `latched` (the `mode`
column of spec/30_encoding.md R61), and a word is one of the 258 event words (R53, R57). -/

namespace Sys2Proof

/-- The `mode` column of the opcode map (spec/30_encoding.md R61): whether `latched` selects this operation. -/
def Instr.wellFormedIn (latched : Bool) : Instr → Bool
  | .recvAddr _ => !latched
  | .recvData _ => latched
  | .req => true
  | .fin => true

/-- One row of the format table of spec/30_encoding.md R53. -/
structure Format where
  fixed : EventWord
  mask : EventWord
deriving DecidableEq, Repr

/-- "A word `w` has format F when `(w AND mask_F) = match_F`" (spec/30_encoding.md R53). -/
def Format.has (f : Format) (w : EventWord) : Bool := (w &&& f.mask) == f.fixed

/-- Format `RECV` (spec/30_encoding.md R53). -/
def Format.recv : Format := { fixed := 0x000, mask := 0x300 }

/-- Format `REQ` (spec/30_encoding.md R53). -/
def Format.req : Format := { fixed := 0x100, mask := 0x3FF }

/-- Format `FIN` (spec/30_encoding.md R53). -/
def Format.fin : Format := { fixed := 0x200, mask := 0x3FF }

/-- The three formats, "one per event kind" (spec/30_encoding.md R53). -/
def formats : List Format := [Format.recv, Format.req, Format.fin]

/-- A word is an event word when it has one of the three formats. All others are reserved (spec/30_encoding.md R57). -/
def EventWord.isEvent (w : EventWord) : Bool := formats.any fun f => f.has w

/-- No word of a trace is reserved: the Transport never produces a reserved word (spec/30_encoding.md R57). -/
def traceWellFormed (ws : List EventWord) : Bool := ws.all EventWord.isEvent

end Sys2Proof
end

