-- ==== Sys2Proof/Decode.lean ====
section
/-! DEFINITION. From a 10-bit event word to an event (spec/30_encoding.md R52, R61), from an event and the mode bit to an
operation (R56), and back: the encoder (R53) and the textual syntax (R63). The bit patterns are the spec's own choice
(spec/92_eei_decisions.md D2). -/

namespace Sys2Proof

/-- The event type, "exactly three constructors" (spec/30_encoding.md R51). -/
inductive Event where
  | byteReceived (v : Byte)
  | byteRequested
  | finished
deriving DecidableEq, Repr

/-- Why a word is not an event: the three classes of reserved words of spec/30_encoding.md R57. -/
inductive ReservedWord where
  /-- `kind = 0b11`: `0x300` to `0x3FF`. -/
  | kind
  /-- `kind = 0b01` with non-zero data: `0x101` to `0x1FF`. -/
  | requestData
  /-- `kind = 0b10` with non-zero data: `0x201` to `0x2FF`. -/
  | finishedData
deriving DecidableEq, Repr

/-- `kind = word[9:8]` (spec/30_encoding.md R52). -/
def kindField (w : EventWord) : BitVec 2 := w.extractLsb' 8 2

/-- `data = word[7:0]`, unsigned, "with no sign extension, no scaling and no shift" (spec/30_encoding.md R52, R54). -/
def dataField (w : EventWord) : Byte := w.extractLsb' 0 8

/-- The decoder of spec/30_encoding.md R61, total on all 1024 words (R62). -/
def decodeEvent (w : EventWord) : Except ReservedWord Event :=
  if kindField w = 0b00 then .ok (.byteReceived (dataField w))
  else if kindField w = 0b01 then
    if dataField w = 0x00 then .ok .byteRequested else .error .requestData
  else if kindField w = 0b10 then
    if dataField w = 0x00 then .ok .finished else .error .finishedData
  else .error .kind

/-- Which operation an event is: `latched` "acts as a decoding mode bit" (spec/30_encoding.md R56). -/
def operationOf (latched : Bool) : Event → Instr
  | .byteReceived v => if latched then .recvData v else .recvAddr v
  | .byteRequested => .req
  | .finished => .fin

/-- Decoding in the mode `latched` (spec/30_encoding.md R56, R61). -/
def decodeIn (latched : Bool) (w : EventWord) : Except ReservedWord Instr :=
  match decodeEvent w with
  | .ok e => .ok (operationOf latched e)
  | .error why => .error why

/-- `enc(RECV v) = zext_10(v)`, `enc(REQ) = 0x100`, `enc(FIN) = 0x200` (spec/30_encoding.md R53). -/
def encodeEvent : Event → EventWord
  | .byteReceived v => v.setWidth 10
  | .byteRequested => 0x100
  | .finished => 0x200

/-- The event an operation is a behaviour of (spec/30_encoding.md R61). -/
def Instr.event : Instr → Event
  | .recvAddr v => .byteReceived v
  | .recvData v => .byteReceived v
  | .req => .byteRequested
  | .fin => .finished

/-- The word of an operation: `RECV.ADDR` and `RECV.DATA` "encode identically" (spec/30_encoding.md R63). -/
def encode (i : Instr) : EventWord := encodeEvent i.event

/-- The textual syntax of an event (spec/30_encoding.md R63), the byte in decimal. -/
def Event.text : Event → String
  | .byteReceived v => "RECV " ++ toString v.toNat
  | .byteRequested => "REQ"
  | .finished => "FIN"

/-- The textual syntax of an operation, which says which behaviour of `RECV` the writer expects (spec/30_encoding.md R63). -/
def Instr.text : Instr → String
  | .recvAddr v => "RECV.ADDR " ++ toString v.toNat
  | .recvData v => "RECV.DATA " ++ toString v.toNat
  | .req => "REQ"
  | .fin => "FIN"

/-- The event word whose bits are the low `nbits` bits of `w`, bit 0 the least significant. None where a bit above bit 9 is
set: an event word has 10 bits (spec/30_encoding.md R52). -/
def wordOfTable (nbits w : Nat) : Option EventWord :=
  let n := w % 2 ^ nbits
  if n < 2 ^ 10 then some (BitVec.ofNat 10 n) else none

/-- The operation the decoder reads from the bits of a row of spec/opcode_table.json, in the mode the block is in after
initialization (`latched = false`, spec/10_state.md R25). The rows `RECV.ADDR` and `RECV.DATA` have one word
(spec/30_encoding.md R56), which this mode reads as `RECV.ADDR` [log 10]. -/
def decodeTableWord (nbits w : Nat) : Option Instr :=
  match wordOfTable nbits w with
  | none => none
  | some ew => (decodeIn false ew).toOption

end Sys2Proof
end

