-- ==== Sys2Proof/Machine/State.lean ====
section
/-! DEFINITION. The state of the block (spec/10_state.md R10 to R13, R19), the model's three fields for the event and the
response port (spec/30_encoding.md R50), the reasons a step can stop, and the state after INIT (spec/70_reset_and_hazards.md
R130). -/

namespace Sys2Proof.Machine

/-- The 256 slots as (address, byte) pairs. The form is `Memory.wf` (Machine/Ops.lean) and what an unlisted address
reads as is `Config.memInit` [log 1, 3]. -/
abbrev Memory := List Host.Cell

structure State where
  /-- The 256 byte slots (spec/10_state.md R10). -/
  mem : Memory
  /-- The slot the next data access uses (spec/10_state.md R11). -/
  cursor : Byte
  /-- The address-latched flag: false is `AwaitingAddress`, true is `Streaming` (spec/10_state.md R12, R13). -/
  latched : Bool
  /-- `SLAVE_ADDR`, the address given to `bind`. The Transport alone reads it and no event writes it
  (spec/10_state.md R19) [log 2]. -/
  slaveAddr : BusAddr
  /-- The MODEL's own field: the event words the host has still to deliver, the next one first. The head is `ev_word` and a
  non-empty list is `ev_valid` (spec/30_encoding.md R50). DESIGN CHOICE, safe [log 5]. -/
  pending : List EventWord
  /-- The MODEL's own field: the response port as the last step left it, `some b` for `rsp_valid = 1` and `rsp_data = b`
  (spec/30_encoding.md R50, R55). DESIGN CHOICE, safe [log 6]. -/
  rsp : Option Byte
  /-- The MODEL's own field: every response handed to the Transport so far, oldest first
  (spec/70_reset_and_hazards.md R144). DESIGN CHOICE, safe [log 6]. -/
  responses : List Byte
deriving DecidableEq, Repr

/-- There is no fault: the block "raises no synchronous exception, for any event in any state"
(spec/60_exceptions.md R110, R125). Nothing raises one. -/
inductive Fault where
deriving DecidableEq, Repr

inductive Refusal where
  /-- Raised by an arm of `exec` whose instruction has no meaning yet. No arm is left that raises it. Safe. -/
  | notModelled (mnemonic : String)
  /-- Raised by `step` on a reserved event word: "a model refuses a trace that contains one and gives it no meaning"
  (spec/30_encoding.md R57). Safe: the Transport never produces such a word [log 8]. -/
  | reservedEventWord (w : EventWord) (why : ReservedWord)
deriving DecidableEq, Repr

/-- The block right after INIT and `bind` and before the first event (spec/10_state.md R25, spec/70_reset_and_hazards.md
R130, R133). -/
def State.reset : State where
  mem := []
  cursor := Config.cursorInit
  latched := Config.latchInit
  slaveAddr := Config.slaveAddr
  pending := []
  rsp := none
  responses := []

end Sys2Proof.Machine
end

