-- ==== Sys2Proof/Machine/Flags.lean ====
section
/-! DEFINITION. The one flag, `latched` (spec/10_state.md R18). There are no condition codes, and the wrap of the cursor is
recorded nowhere. -/

namespace Sys2Proof.Machine

/-- `latched <- true` (spec/40_receive.md R70). -/
def State.latch (s : State) : State := { s with latched := true }

/-- `latched <- false` (spec/42_finish.md R85). -/
def State.unlatch (s : State) : State := { s with latched := false }

end Sys2Proof.Machine
end

