-- ==== Sys2Proof/Machine/Ops.lean ====
section
/-! DEFINITION. The named operations over memory, the cursor, the response port and the event port, which every meaning is
built from, and the fetch of the next event. -/

namespace Sys2Proof.Machine

/-- The byte listed at address `k`, if there is one. -/
def Memory.find : Memory → Nat → Option Byte
  | [], _ => none
  | (k', v) :: m, k => if k' = k then some v else Memory.find m k

/-- The list with `v` at address `k`, the addresses still rising. -/
def Memory.put : Memory → Nat → Byte → Memory
  | [], k, v => [(k, v)]
  | (k', v') :: m, k, v =>
    if k < k' then (k, v) :: (k', v') :: m
    else if k = k' then (k, v) :: m
    else (k', v') :: Memory.put m k v

/-- The list with nothing at address `k`. -/
def Memory.erase (m : Memory) (k : Nat) : Memory := m.filter fun c => c.1 != k

/-- What a slot that is not listed holds: its contents after initialization, `MEM_INIT` (spec/10_state.md R25,
spec/20_memory.md R40) [log 1]. -/
def Memory.unlisted (k : Nat) : Byte := Config.memInit (BitVec.ofNat 8 k)

/-- The canonical form: addresses strictly rising and inside the 256 slots, and no pair that says what an unlisted address
reads as [log 3]. -/
abbrev Memory.wf (m : Memory) : Prop :=
  m.Pairwise (fun c d => c.1 < d.1) ∧ ∀ c ∈ m, c.1 < Config.memSize ∧ c.2 ≠ Memory.unlisted c.1

/-- `MemRead(a, 1)` (spec/00_scope.md R8): the latest byte stored in slot `a`, or `MEM_INIT(a)` if there was none
(spec/20_memory.md R40). -/
def Memory.read (m : Memory) (a : Byte) : Byte := (Memory.find m a.toNat).getD (Memory.unlisted a.toNat)

/-- `MemWrite(a, 1, v)` (spec/00_scope.md R8), which "leaves every other slot unchanged". -/
def Memory.write (m : Memory) (a v : Byte) : Memory :=
  if v = Memory.unlisted a.toNat then Memory.erase m a.toNat else Memory.put m a.toNat v

/-- `MemRead(a, 1)` on the block's memory (spec/00_scope.md R8). -/
def State.memRead (s : State) (a : Byte) : Byte := Memory.read s.mem a

/-- `MemWrite(a, 1, v)` on the block's memory (spec/00_scope.md R8). -/
def State.memWrite (s : State) (a v : Byte) : State := { s with mem := Memory.write s.mem a v }

/-- `inc8(x) = (x + 1) mod 256`, so `inc8(255) = 0` (spec/00_scope.md R8). The block computes no other arithmetic
(spec/42_finish.md R88). -/
def inc8 (x : Byte) : Byte := x + 1

/-- `cursor <- v` (spec/40_receive.md R70). -/
def State.setCursor (s : State) (v : Byte) : State := { s with cursor := v }

/-- `cursor <- (cursor + 1) mod 256`, the post-increment of the one addressing mode (spec/20_memory.md R32). -/
def State.advance (s : State) : State := s.setCursor (inc8 s.cursor)

/-- `respond(b)`: the byte goes out on the response port and into the Transport's record (spec/00_scope.md R8,
spec/30_encoding.md R55, spec/70_reset_and_hazards.md R144) [log 6]. -/
def State.respond (s : State) (b : Byte) : State := { s with rsp := some b, responses := s.responses ++ [b] }

/-- `rsp_valid = 0`: no response (spec/30_encoding.md R55) [log 6]. -/
def State.noResponse (s : State) : State := { s with rsp := none }

/-- `bind(address, handler)`: the one registration at start-up, which is no event (spec/10_state.md R19,
spec/60_exceptions.md R118, spec/70_reset_and_hazards.md R133) [log 11]. -/
def State.bind (s : State) (a : BusAddr) : State := { s with slaveAddr := a }

/-- `ev_valid` (spec/30_encoding.md R50). -/
def State.evValid (s : State) : Bool := !s.pending.isEmpty

/-- `rsp_valid` (spec/30_encoding.md R50, R55). -/
def State.rspValid (s : State) : Bool := s.rsp.isSome

/-- The event port after the event at its head has been taken: `rest` is still to come (spec/30_encoding.md R50). -/
def State.consume (s : State) (rest : List EventWord) : State := { s with pending := rest }

/-- No event: "the state is kept indefinitely" (spec/43_bus_operations.md R107), and there is no response. DEDUCED, safe
[log 7]. -/
def State.idle (s : State) : State := s.noResponse

/-- What stands at the event port. -/
inductive Fetched where
  /-- No event is due. -/
  | nothing
  /-- The next word is no event (spec/30_encoding.md R57). -/
  | reserved (w : EventWord) (why : ReservedWord)
  /-- The next event, as the operation that `latched` selects for it, and the words after it. -/
  | event (i : Instr) (rest : List EventWord)
deriving DecidableEq, Repr

/-- The next event, decoded in the block's mode (spec/30_encoding.md R56, R61). -/
def fetch (s : State) : Fetched :=
  match s.pending with
  | [] => .nothing
  | w :: rest =>
    match decodeIn s.latched w with
    | .ok i => .event i rest
    | .error why => .reserved w why

end Sys2Proof.Machine
end

