-- ==== Sys2Proof/Machine/Finish.lean ====
section
/-! DEFINITION. The Finished event: `FIN` (spec/42_finish.md R85). -/

namespace Sys2Proof.Machine

/-- `FIN` (spec/42_finish.md R85): the flag is cleared, the cursor and the memory keep their values and there is no
response. -/
def execFin (s : State) : Host.Outcome State Fault Refusal := .next (s.unlatch.noResponse)

end Sys2Proof.Machine
end

