-- ==== Sys2Proof/Machine/Operands.lean ====
section
/-! DEFINITION. The operand forms: the effective address of a data access (spec/20_memory.md R32) and the two uses of the
received byte (spec/30_encoding.md R54). Its assembly from the event word is `dataField` (Decode.lean). -/

namespace Sys2Proof.Machine

/-- "The effective address of every memory access is the value of `cursor` before the event" (spec/20_memory.md R32). -/
def effectiveAddress (s : State) : Byte := s.cursor

/-- "When the value is used as an address byte it becomes the cursor as it is" (spec/30_encoding.md R54). -/
def addressOperand (v : Byte) : Byte := v

/-- "When it is used as a data byte it is stored as it is" (spec/30_encoding.md R54). -/
def dataOperand (v : Byte) : Byte := v

end Sys2Proof.Machine
end

