-- ==== Sys2Proof/Machine/Receive.lean ====
section
/-! DEFINITION. The ByteReceived event: `RECV.ADDR` and `RECV.DATA` (spec/40_receive.md R70 to R72). -/

namespace Sys2Proof.Machine

/-- The address byte (spec/40_receive.md R70): the cursor is loaded, the flag is set, memory is untouched and there is no
response. -/
def latchAddress (v : Byte) (s : State) : State :=
  ((s.setCursor (addressOperand v)).latch).noResponse

/-- A data byte (spec/40_receive.md R71): stored at the cursor before the event, which then advances. The flag stays and
there is no response. -/
def storeData (v : Byte) (s : State) : State :=
  ((s.memWrite (effectiveAddress s) (dataOperand v)).advance).noResponse

/-- `RECV.ADDR` (spec/40_receive.md R70). In the other mode its word is `RECV.DATA`'s (spec/30_encoding.md R56, R63), and so
is its effect (R72). DEDUCED, safe [log 10]. -/
def execRecvAddr (v : Byte) (s : State) : Host.Outcome State Fault Refusal :=
  if s.latched then .next (storeData v s) else .next (latchAddress v s)

/-- `RECV.DATA` (spec/40_receive.md R71). In the other mode its word is `RECV.ADDR`'s (spec/30_encoding.md R56, R63), and so
is its effect (R72). DEDUCED, safe [log 10]. -/
def execRecvData (v : Byte) (s : State) : Host.Outcome State Fault Refusal :=
  if s.latched then .next (storeData v s) else .next (latchAddress v s)

end Sys2Proof.Machine
end

