-- ==== Sys2Proof/Machine/Request.lean ====
section
/-! DEFINITION. The ByteRequested event: `REQ` (spec/41_request.md R80). -/

namespace Sys2Proof.Machine

/-- `REQ` (spec/41_request.md R80): the byte at the cursor before the event is the response, and the cursor advances. The
flag is neither read nor written, and no address byte need have come before (R83). -/
def execReq (s : State) : Host.Outcome State Fault Refusal :=
  .next ((s.respond (s.memRead (effectiveAddress s))).advance)

end Sys2Proof.Machine
end

