-- ==== Sys2Proof/Machine/Dispatch.lean ====
section
/-! DEFINITION. The dispatch: one arm per operation of spec/opcode_table.json (spec/42_finish.md R87, R89). -/

namespace Sys2Proof.Machine

def exec (i : Instr) (s : State) : Host.Outcome State Fault Refusal :=
  match i with
  | .recvAddr v => Sys2Proof.Machine.execRecvAddr v s
  | .recvData v => Sys2Proof.Machine.execRecvData v s
  | .req => Sys2Proof.Machine.execReq s
  | .fin => Sys2Proof.Machine.execFin s

end Sys2Proof.Machine
end

