-- ==== Sys2Proof/Machine/Step.lean ====
section
/-! DEFINITION. One step: the next event at the event port, handled completely (spec/20_memory.md R37,
spec/30_encoding.md R50), and how a single event word is placed there. -/

namespace Sys2Proof.Machine

/-- One step of the block. With no event due the block's state is kept [log 7]; a reserved word is refused
(spec/30_encoding.md R57) [log 8]. -/
def step (s : State) : Host.Outcome State Fault Refusal :=
  match fetch s with
  | .nothing => .next s.idle
  | .reserved w why => .refused (.reservedEventWord w why)
  | .event i rest => exec i (s.consume rest)

/-- The state in which the event word with bits `w` is the next to be delivered, before whatever else is pending. Bits that no
10-bit word holds are presented as the reserved word `0x3FF`, which the next step refuses as `decodeTableWord` does
[log 5, 10]. -/
def State.withFetchWord (s : State) (nbits w : Nat) : State :=
  match wordOfTable nbits w with
  | some ew => { s with pending := ew :: s.pending }
  | none => { s with pending := 0x3FF :: s.pending }

end Sys2Proof.Machine
end

