-- ==== Sys2Proof/Machine/Transport.lean ====
section
/-! DEFINITION. The Transport as the pure translation from bus operations to events (spec/43_bus_operations.md R90 to R97,
spec/92_eei_decisions.md D20) [log 9], and the way a trace reaches the event port. It is the block's environment
(spec/00_scope.md R4): no part of `State` and no part of `step`. -/

namespace Sys2Proof.Machine

/-- The master-side calls (spec/30_encoding.md R65). The timeout of `read` has no effect on the block
(spec/43_bus_operations.md R95) and is not modelled [log 14]. -/
inductive BusOp where
  /-- `write(target_address, bytes, keep_bus)`. -/
  | write (target : BusAddr) (bytes : List Byte) (keepBus : Bool)
  /-- `read(target_address, buffer, max_len, keep_bus, timeout)`. -/
  | read (target : BusAddr) (maxLen : Nat) (keepBus : Bool)
deriving DecidableEq, Repr

/-- The bus address an operation is addressed to. -/
def BusOp.target : BusOp → BusAddr
  | .write t _ _ => t
  | .read t _ _ => t

/-- Whether the master keeps the bus after the operation (spec/43_bus_operations.md R96). -/
def BusOp.keepBus : BusOp → Bool
  | .write _ _ k => k
  | .read _ _ k => k

/-- The bytes the master sends in an operation. -/
def BusOp.sent : BusOp → List Byte
  | .write _ bs _ => bs
  | .read _ _ _ => []

/-- How many bytes the master takes in an operation. -/
def BusOp.taken : BusOp → Nat
  | .write _ _ _ => 0
  | .read _ n _ => n

/-- One `ByteReceived` per byte sent and one `ByteRequested` per byte taken, in order, the values unchanged, and no other
event (spec/43_bus_operations.md R92). -/
def BusOp.events (op : BusOp) : List Event :=
  op.sent.map .byteReceived ++ List.replicate op.taken .byteRequested

/-- Whether a `Finished` follows an operation, `more` saying that another operation follows in the session: always when the
bus is released, and at a kept-bus junction exactly when `FINISH_ON_RESTART` (spec/43_bus_operations.md R96). -/
def BusOp.finishes (finishOnRestart : Bool) (op : BusOp) (more : Bool) : Bool :=
  !op.keepBus || (finishOnRestart && more)

/-- The event trace of a sequence of bus operations at a slave bound to `slaveAddr` (spec/43_bus_operations.md R91 to R96).
An operation addressed to another slave causes no event (R91). -/
def busTrace (finishOnRestart : Bool) (slaveAddr : BusAddr) : List BusOp → List Event
  | [] => []
  | op :: rest =>
    (if op.target = slaveAddr then
        op.events ++ (if op.finishes finishOnRestart !rest.isEmpty then [.finished] else [])
      else [])
      ++ busTrace finishOnRestart slaveAddr rest

/-- `WRITE [b0, ..., bn]` (spec/30_encoding.md R64). -/
def opWrite (t : BusAddr) (bs : List Byte) : BusOp := .write t bs false

/-- `WRITE.KEEP [b0, ..., bn]` (spec/30_encoding.md R64). -/
def opWriteKeep (t : BusAddr) (bs : List Byte) : BusOp := .write t bs true

/-- `SEEK a` (spec/30_encoding.md R64). -/
def opSeek (t : BusAddr) (a : Byte) : BusOp := .write t [a] false

/-- `SEEK.KEEP a` (spec/30_encoding.md R64). -/
def opSeekKeep (t : BusAddr) (a : Byte) : BusOp := .write t [a] true

/-- `READ n` (spec/30_encoding.md R64). -/
def opRead (t : BusAddr) (n : Nat) : BusOp := .read t n false

/-- `READ.KEEP n` (spec/30_encoding.md R64). -/
def opReadKeep (t : BusAddr) (n : Nat) : BusOp := .read t n true

/-- What a master-side call gives back (spec/30_encoding.md R65). -/
inductive BusResult where
  /-- `count_written`. -/
  | wrote (count : Nat)
  /-- The bytes read. Their number is `count_read`. -/
  | got (bytes : List Byte)
  /-- `error`, which has no codes. -/
  | error
deriving DecidableEq, Repr

/-- The results of the operations that select this slave, with a reliable Transport: every count is the requested length, and
each read gets the next responses, in order and unchanged (spec/43_bus_operations.md R92, R97). -/
def busResults (slaveAddr : BusAddr) : List BusOp → List Byte → List BusResult
  | [], _ => []
  | .write t bs _ :: rest, rs =>
    if t = slaveAddr then .wrote bs.length :: busResults slaveAddr rest rs else busResults slaveAddr rest rs
  | .read t n _ :: rest, rs =>
    if t = slaveAddr then .got (rs.take n) :: busResults slaveAddr rest (rs.drop n) else busResults slaveAddr rest rs

/-- The event port with the trace `es` to deliver (spec/70_reset_and_hazards.md R144) [log 5]. -/
def State.withEvents (s : State) (es : List Event) : State := { s with pending := es.map encodeEvent }

/-- The event port with the events that `ops` cause at this slave to deliver (spec/43_bus_operations.md R91 to R96). -/
def State.withBusOps (s : State) (finishOnRestart : Bool) (ops : List BusOp) : State :=
  s.withEvents (busTrace finishOnRestart s.slaveAddr ops)

end Sys2Proof.Machine
end

