-- ==== Sys2Proof/Machine/Driver.lean ====
section
/-! DEFINITION. The Master Exchange Driver (spec/43_bus_operations.md R98 to R102): which bus operation it issues next, and
what it makes of the result. It is the block's environment (spec/00_scope.md R4) and shares no state with it
(spec/60_exceptions.md R122). The sleep of step 5 is not modelled [log 14]. -/

namespace Sys2Proof.Machine

/-- The driver's parameters (spec/00_scope.md R7): all OPEN, so claims quantify over them [log 12]. -/
structure DriverParams where
  payload : List Byte
  split : Nat
  offsetInit : Byte
deriving DecidableEq, Repr

/-- "`L >= 1`" and "`0 <= SPLIT < L`" (spec/00_scope.md R7). -/
def DriverParams.wellFormed (p : DriverParams) : Bool :=
  decide (1 ≤ p.payload.length) && decide (p.split < p.payload.length)

/-- The two ways the driver stops (spec/43_bus_operations.md R101). They have no numeric codes. -/
inductive DriverFailure where
  | transportFault
  | dataMismatch
deriving DecidableEq, Repr

/-- Which of the steps 1 to 4 is next, or that the driver has stopped (spec/43_bus_operations.md R98, R101). -/
inductive DriverPhase where
  | write
  | seek
  | readA
  | readB
  | halted (why : DriverFailure)
deriving DecidableEq, Repr

structure Driver where
  params : DriverParams
  /-- The current address offset `A`. -/
  offset : Byte
  phase : DriverPhase
deriving DecidableEq, Repr

/-- The driver before its first iteration, at `OFFSET_INIT` (spec/43_bus_operations.md R102). -/
def Driver.start (p : DriverParams) : Driver := { params := p, offset := p.offsetInit, phase := .write }

/-- Step 1: `[address_byte, payload_bytes...]` (spec/43_bus_operations.md R98). -/
def Driver.writeOp (slaveAddr : BusAddr) (d : Driver) : BusOp := opWrite slaveAddr (d.offset :: d.params.payload)

/-- Step 2: the seek, bus kept (spec/43_bus_operations.md R98). -/
def Driver.seekOp (slaveAddr : BusAddr) (d : Driver) : BusOp := opSeekKeep slaveAddr d.offset

/-- Step 3: partial read A, bus kept (spec/43_bus_operations.md R98). -/
def Driver.readAOp (slaveAddr : BusAddr) (d : Driver) : BusOp := opReadKeep slaveAddr d.params.split

/-- Step 4: partial read B, bus released (spec/43_bus_operations.md R98). -/
def Driver.readBOp (slaveAddr : BusAddr) (d : Driver) : BusOp :=
  opRead slaveAddr (d.params.payload.length - d.params.split)

/-- The operation the driver issues next. A driver that has stopped "issues no further bus operation"
(spec/43_bus_operations.md R101). -/
def Driver.nextOp (slaveAddr : BusAddr) (d : Driver) : Option BusOp :=
  match d.phase with
  | .write => some (d.writeOp slaveAddr)
  | .seek => some (d.seekOp slaveAddr)
  | .readA => some (d.readAOp slaveAddr)
  | .readB => some (d.readBOp slaveAddr)
  | .halted _ => none

/-- The operations of one iteration in which nothing fails (spec/43_bus_operations.md R98). -/
def Driver.iterationOps (slaveAddr : BusAddr) (d : Driver) : List BusOp :=
  [d.writeOp slaveAddr, d.seekOp slaveAddr, d.readAOp slaveAddr, d.readBOp slaveAddr]

/-- The driver stops, "no retry" (spec/43_bus_operations.md R101). -/
def Driver.fail (d : Driver) (why : DriverFailure) : Driver := { d with phase := .halted why }

/-- After a write of `expected` bytes: a short count or an error is `TransportFault` (spec/43_bus_operations.md R98, R101).
DESIGN CHOICE [log 12]: a count above `expected`, of which the spec does not speak, lets the driver go on, and a result that is no
count is `TransportFault`. -/
def Driver.afterWrite (d : Driver) (expected : Nat) (ok : DriverPhase) : BusResult → Driver
  | .wrote n => if n < expected then d.fail .transportFault else { d with phase := ok }
  | .got _ => d.fail .transportFault
  | .error => d.fail .transportFault

/-- After a read that should return `expected`: a short transfer or an error is `TransportFault`, other bytes are
`DataMismatch` (spec/43_bus_operations.md R98, R101). DESIGN CHOICE [log 12]: more bytes than expected, of which the spec does not
speak, are `DataMismatch` even where the first ones agree, and a result that is no bytes is `TransportFault`. -/
def Driver.afterRead (d : Driver) (expected : List Byte) (ok : Driver) : BusResult → Driver
  | .got bs =>
    if bs.length < expected.length then d.fail .transportFault
    else if bs = expected then ok
    else d.fail .dataMismatch
  | .wrote _ => d.fail .transportFault
  | .error => d.fail .transportFault

/-- Step 5: `A <- (A + 32) mod 256`, and again from step 1 (spec/43_bus_operations.md R98). -/
def Driver.nextIteration (d : Driver) : Driver := { d with offset := d.offset + Config.offsetStep, phase := .write }

/-- What the driver does with the result of its current operation (spec/43_bus_operations.md R98, R101) [log 12]. -/
def Driver.observe (d : Driver) (r : BusResult) : Driver :=
  match d.phase with
  | .write => d.afterWrite (d.params.payload.length + 1) .seek r
  | .seek => d.afterWrite 1 .readA r
  | .readA => d.afterRead (d.params.payload.take d.params.split) { d with phase := .readB } r
  | .readB => d.afterRead (d.params.payload.drop d.params.split) d.nextIteration r
  | .halted _ => d

end Sys2Proof.Machine
end

