-- ==== Sys2Proof/Safety.lean ====
section
/-! DEFINITION. The terms claims use: a run of the block on a finite event trace (spec/70_reset_and_hazards.md R144), the
transition table of spec/42_finish.md R87 as a reference the machine is compared with, and the invariant every step keeps.
No fault exists (spec/60_exceptions.md R110), so a run is safe when no step of it is refused. -/

namespace Sys2Proof.Machine

/-- `k` steps, stopping at the first one that does not give a next state. -/
def runSteps : Nat → State → Host.Outcome State Fault Refusal
  | 0, s => .next s
  | k + 1, s =>
    match step s with
    | .next s' => runSteps k s'
    | .fault r => .fault r
    | .refused r => .refused r

/-- A run from `s` on the finite trace `es` (spec/70_reset_and_hazards.md R144): the events one after the other, one step
each. -/
def runTrace (es : List Event) (s : State) : Host.Outcome State Fault Refusal := runSteps es.length (s.withEvents es)

/-- The block as spec/00_scope.md R8 and spec/42_finish.md R87 write it: `(mem, cursor, latched)`, with `mem` a function
(spec/20_memory.md R40). -/
structure Block where
  slots : Byte → Byte
  cursor : Byte
  latched : Bool

/-- What a state of the machine is as a block. -/
def State.block (s : State) : Block := { slots := s.memRead, cursor := s.cursor, latched := s.latched }

/-- `step` of spec/42_finish.md R87, word for word. -/
def Block.step (b : Block) : Event → Block
  | .byteReceived v =>
    if b.latched = false then { b with cursor := v, latched := true }
    else { slots := fun a => if a = b.cursor then v else b.slots a, cursor := b.cursor + 1, latched := true }
  | .byteRequested => { b with cursor := b.cursor + 1 }
  | .finished => { b with latched := false }

/-- `out` of spec/42_finish.md R87, word for word. -/
def Block.out (b : Block) : Event → Option Byte
  | .byteReceived _ => none
  | .byteRequested => some (b.slots b.cursor)
  | .finished => none

/-- `run(S, []) = S`, `run(S, e :: t) = run(step(S, e), t)` (spec/00_scope.md R8). -/
def Block.run (b : Block) : List Event → Block
  | [] => b
  | e :: es => (b.step e).run es

/-- The responses of a run, one per `REQ`, in order (spec/70_reset_and_hazards.md R144). -/
def Block.outs (b : Block) : List Event → List Byte
  | [] => []
  | e :: es => (b.out e).toList ++ (b.step e).outs es

/-- What every step keeps: the memory's canonical form, and that the byte on the response port is the last one recorded. -/
def State.Inv (s : State) : Prop :=
  s.mem.wf ∧ ∀ b, s.rsp = some b → s.responses.getLast? = some b

end Sys2Proof.Machine
end

