-- ==== Sys2Proof/Certificates/Slice0/Obligations.lean ====
section
/-! DEFINITION. The statements for the provers. Each docstring names the rule or the sentence of spec/ it formalises; the list
with cites and quotes is OBLIGATIONS.json. A statement whose basis there is 'derived' rests on something that is not the source
document's own sentence: a rule that the spec marks as its own derivation or decision, or a choice of the model whose log
entry is named. -/

open Sys2Proof Sys2Proof.Machine

/-! ### The four operations -/

/-- spec/40_receive.md R70, whole: the word, the effect, everything else unchanged (memory, the responses, the event port, the
binding), no response, and corner case (e), the seek. The completion of `recvAddr` in its mode, for every value and every
state. -/
def Obligations.RecvAddrLoadsCursorAndLatches : Prop :=
  ∀ (s : State) (v : Byte), s.latched = false →
    decodeIn false (BitVec.ofNat 10 (0x000 + v.toNat)) = .ok (.recvAddr v) ∧
    exec (.recvAddr v) s = .next { s with cursor := v, latched := true, rsp := none } ∧
    exec .fin { s with cursor := v, latched := true, rsp := none } =
      .next { s with cursor := v, latched := false, rsp := none }

/-- spec/40_receive.md R71, whole: the word, the byte stored at the cursor before the event, the cursor's advance modulo 256,
and the frame: every other slot, the flag, the responses, the event port and the binding are as before. The completion of
`recvData` in its mode. -/
def Obligations.RecvDataStoresAtCursorAndAdvances : Prop :=
  ∀ (s : State) (v : Byte), s.latched = true →
    decodeIn true (BitVec.ofNat 10 (0x000 + v.toNat)) = .ok (.recvData v) ∧
    effectiveAddress s = s.cursor ∧
    ∃ t, exec (.recvData v) s = .next t ∧
      t.memRead (effectiveAddress s) = v ∧
      (∀ a, a ≠ effectiveAddress s → t.memRead a = s.memRead a) ∧
      t.cursor.toNat = (s.cursor.toNat + 1) % 256 ∧
      t.latched = true ∧ t.rsp = none ∧
      t.responses = s.responses ∧ t.pending = s.pending ∧ t.slaveAddr = s.slaveAddr

/-- spec/41_request.md R80 and R83, whole: in either protocol state, and with no address byte before it, the response is the byte
at the cursor before the event and the cursor advances modulo 256; memory, the flag, the event port and the binding are as
before. The completion of `req` in every state. -/
def Obligations.ReqServesCursorAndAdvances : Prop :=
  (∀ latched, decodeIn latched 0x100 = .ok .req) ∧
  ∀ s : State, exec .req s = .next
    { s with
      cursor := BitVec.ofNat 8 ((s.cursor.toNat + 1) % 256)
      rsp := some (s.memRead s.cursor)
      responses := s.responses ++ [s.memRead s.cursor] }

/-- spec/42_finish.md R85, whole: in either protocol state only the flag changes, to false; there is no response; and two in a
row equal one (corner case (c)). The completion of `fin` in every state. -/
def Obligations.FinClearsOnlyTheFlag : Prop :=
  (∀ latched, decodeIn latched 0x200 = .ok .fin) ∧
  ∀ s : State,
    exec .fin s = .next { s with latched := false, rsp := none } ∧
    exec .fin { s with latched := false, rsp := none } = .next { s with latched := false, rsp := none }

/-- The two `RECV` operations in the mode that does not select them: since they "encode identically" (spec/30_encoding.md, section
7) each then has the other's effect, and completes. The model's reading, DEDUCED [log 10]. -/
def Obligations.RecvInTheOtherModeIsTheOtherRecv : Prop :=
  ∀ (s : State) (v : Byte),
    (s.latched = false → exec (.recvData v) s = .next { s with cursor := v, latched := true, rsp := none }) ∧
    (s.latched = true → ∃ t, exec (.recvAddr v) s = .next t ∧ exec (.recvData v) s = .next t)

/-! ### Steps, decoding and encoding -/

/-- A step runs the decoded event: with the word of an operation at the head of the event port, the step is `exec` of the operation
that the mode selects, on the state whose event port holds the rest. Nothing else stands around `exec`
(spec/30_encoding.md, sections 3 and 6). -/
def Obligations.StepRunsTheDecodedEvent : Prop :=
  ∀ (s : State) (w : EventWord) (rest : List EventWord) (i : Instr),
    decodeIn s.latched w = .ok i →
      step { s with pending := w :: rest } = exec i { s with pending := rest } ∧ i.wellFormedIn s.latched = true

/-- With no event a step keeps the block and gives no response (spec/43_bus_operations.md, section 5, row "nothing": "the state is
kept indefinitely"). The step without an event is the model's, DEDUCED [log 7]. -/
def Obligations.IdleStepsKeepTheBlock : Prop :=
  ∀ (k : Nat) (s : State), s.pending = [] →
    step s = .next { s with rsp := none } ∧
    ∃ t, runSteps k s = .next t ∧ t.block = s.block ∧ t.responses = s.responses ∧ t.pending = []

/-- A reserved word is refused under its own name, in every state, and nothing runs (spec/30_encoding.md, section 4: "a model refuses
a trace that contains one and gives it no meaning"). The spec's own choice, its decision D3 [log 8]. -/
def Obligations.ReservedWordIsRefused : Prop :=
  ∀ (s : State) (w : EventWord) (rest : List EventWord), w.isEvent = false →
    ∃ why, step { s with pending := w :: rest } = .refused (.reservedEventWord w why)

/-- The decoder accepts exactly the words that have one of the three formats, which are `0x000` to `0x0FF`, `0x100` and `0x200`
(spec/30_encoding.md, sections 2 and 4). The bit patterns are the spec's own choice, its decision D2. -/
def Obligations.DecoderAcceptsExactlyTheFormats : Prop :=
  ∀ w : EventWord,
    (decodeEvent w).isOk = w.isEvent ∧
    (w.isEvent = true ↔ w.toNat ≤ 0x0FF ∨ w.toNat = 0x100 ∨ w.toNat = 0x200)

/-- Decode and encode agree, in both directions (spec/30_encoding.md, section 2: "Decoding is the inverse on these 258 words"): an
operation's word decodes to it in the mode that selects it, and a word that decodes is the word of what it decodes to. The bit
patterns are the spec's own choice, its decision D2. -/
def Obligations.DecodeAndEncodeAgree : Prop :=
  (∀ (i : Instr) (latched : Bool), i.wellFormedIn latched = true → decodeIn latched (encode i) = .ok i) ∧
  (∀ (w : EventWord) (i : Instr) (latched : Bool),
    decodeIn latched w = .ok i → encode i = w ∧ i.wellFormedIn latched = true)

/-- A few words, written out from spec/95_test_vectors.md sections 3.5 and 3.6, decode to what they stand for. -/
def Obligations.WordsDecodeAsTheSpecLists : Prop :=
  decodeEvent 0b0000000000 = .ok (.byteReceived 0x00) ∧
  decodeEvent 0b0000010111 = .ok (.byteReceived 0x17) ∧
  decodeEvent 0b0011111111 = .ok (.byteReceived 0xFF) ∧
  decodeEvent 0b0100000000 = .ok .byteRequested ∧
  decodeEvent 0b1000000000 = .ok .finished ∧
  decodeEvent 0b0100000001 = .error .requestData ∧
  decodeEvent 0b1000000001 = .error .finishedData ∧
  decodeEvent 0b1100000000 = .error .kind ∧
  decodeIn false 0b0001000010 = .ok (.recvAddr 0x42) ∧
  decodeIn true 0b0001000010 = .ok (.recvData 0x42)

/-- spec/30_encoding.md R56, whole: `latched` alone tells the two `RECV` operations apart; `REQ` and `FIN` do not depend on it; and
of the operations only `RECV.ADDR` (to true) and `FIN` (to false) change it. -/
def Obligations.ModeBitSelectsTheReceiveOperation : Prop :=
  (∀ v : Byte, decodeIn false (encode (.recvAddr v)) = .ok (.recvAddr v) ∧
    decodeIn true (encode (.recvAddr v)) = .ok (.recvData v) ∧ encode (.recvData v) = encode (.recvAddr v)) ∧
  (∀ latched, decodeIn latched (encode .req) = .ok .req ∧ decodeIn latched (encode .fin) = .ok .fin) ∧
  (∀ (i : Instr) (s t : State), i.wellFormedIn s.latched = true → exec i s = .next t →
    match i with
    | .recvAddr _ => t.latched = true
    | .recvData _ => t.latched = s.latched
    | .req => t.latched = s.latched
    | .fin => t.latched = false)

/-- spec/30_encoding.md R58, whole: every event in every state is handled and gives a next state, by its one rule there. -/
def Obligations.EveryEventIsHandledInEveryState : Prop :=
  ∀ (s : State) (rest : List EventWord),
    (∀ v : Byte, ∃ t, step { s with pending := encodeEvent (.byteReceived v) :: rest } = .next t ∧ t.latched = true ∧
      (s.latched = false → t.cursor = v ∧ ∀ a, t.memRead a = s.memRead a) ∧
      (s.latched = true → t.cursor = s.cursor + 1 ∧ t.memRead s.cursor = v)) ∧
    (∃ t, step { s with pending := encodeEvent .byteRequested :: rest } = .next t ∧
      t.rsp = some (s.memRead s.cursor) ∧ t.latched = s.latched) ∧
    (∃ t, step { s with pending := encodeEvent .finished :: rest } = .next t ∧ t.latched = false)

/-! ### The state, item by item -/

/-- spec/10_state.md R10, whole: 256 slots, one per byte value, "each independently readable/writable". -/
def Obligations.SlotsAreIndependent : Prop :=
  ∀ (s : State) (a v : Byte),
    (s.memWrite a v).memRead a = v ∧
    (∀ b, b ≠ a → (s.memWrite a v).memRead b = s.memRead b) ∧
    (∀ t, exec .req s = .next t → ∀ b, t.memRead b = s.memRead b)

/-- spec/10_state.md R11, whole: the cursor is the slot the next data access uses (a data byte is stored there, a request is served
from there); an address byte loads it, a data byte and a request advance it by `inc8`, and nothing else writes it. -/
def Obligations.CursorIsWrittenOnlyByReceiveAndRequest : Prop :=
  (∀ c : Byte, (inc8 c).toNat = (c.toNat + 1) % 256) ∧ inc8 255 = 0 ∧
  ∀ s t : State, step s = .next t →
    (s.pending = [] → t.cursor = s.cursor) ∧
    (∀ (v : Byte) (rest : List EventWord), s.pending = encodeEvent (.byteReceived v) :: rest →
      (s.latched = false → t.cursor = v) ∧
      (s.latched = true → t.cursor = inc8 s.cursor ∧ t.memRead s.cursor = v)) ∧
    (∀ rest, s.pending = encodeEvent .byteRequested :: rest →
      t.cursor = inc8 s.cursor ∧ t.rsp = some (s.memRead s.cursor)) ∧
    (∀ rest, s.pending = encodeEvent .finished :: rest → t.cursor = s.cursor)

/-- spec/10_state.md R12, whole: the flag goes to true only by `ByteReceived` while it is false, which always sets it; to false only
by `Finished`, which always clears it; and initialization leaves it false. -/
def Obligations.FlagIsSetByAddressByteAndClearedByFinished : Prop :=
  State.reset.latched = false ∧
  ∀ s t : State, step s = .next t →
    (s.latched = false → (t.latched = true ↔ ∃ v rest, s.pending = encodeEvent (.byteReceived v) :: rest)) ∧
    (s.latched = true → (t.latched = false ↔ ∃ rest, s.pending = encodeEvent .finished :: rest))

/-- spec/10_state.md R23, whole: the only transitions on `(mem, cursor, latched)` are the four event rules (and initialization, which
is no step): a step leaves the three items as they are, with no event due, or does what the transition table says for the
one event it handles. -/
def Obligations.OnlyTheEventRulesChangeTheBlock : Prop :=
  ∀ s t : State, step s = .next t →
    (s.pending = [] ∧ t.block = s.block) ∨
    ∃ e rest, s.pending = encodeEvent e :: rest ∧ t.block = s.block.step e

/-- The response port: a step answers exactly when the event it handles is `ByteRequested`, with one byte, and the record of responses
grows by that byte (spec/30_encoding.md, section 2, and spec/92_eei_decisions.md D4, the spec's own choice of representation;
the record is the model's [log 6]). -/
def Obligations.ResponseExactlyOnRequest : Prop :=
  ∀ s t : State, step s = .next t →
    (t.rspValid = true ↔ ∃ rest, s.pending = encodeEvent .byteRequested :: rest) ∧
    (t.rspValid = true → t.rsp = some (s.memRead s.cursor)) ∧
    t.responses = s.responses ++ t.rsp.toList

/-- The event port and the configuration: a step takes exactly the next event, "no event can skip, repeat or reorder elements of the
trace" (spec/42_finish.md, last section), and no event writes `SLAVE_ADDR` (spec/10_state.md, section 3); `bind` writes it and
nothing else. The event port as a list is the model's [log 5]. -/
def Obligations.StepTakesOneEventAndKeepsTheBinding : Prop :=
  (∀ s t : State, step s = .next t → t.pending = s.pending.tail ∧ t.slaveAddr = s.slaveAddr) ∧
  (∀ (s : State) (a : BusAddr), s.bind a = { s with slaveAddr := a })

/-- After initialization: every slot holds `MEM_INIT`, the flag is false, and the cursor is 0, which is the spec's own decision D7
(spec/70_reset_and_hazards.md, section 1; [log 1, 4]). The model's own fields are empty [log 5, 6]. -/
def Obligations.ResetLeavesInitialContents : Prop :=
  (∀ a, State.reset.memRead a = Config.memInit a) ∧
  State.reset.cursor = 0 ∧ State.reset.latched = false ∧ State.reset.slaveAddr = Config.slaveAddr ∧
  State.reset.pending = [] ∧ State.reset.rsp = none ∧ State.reset.responses = []

/-- The memory's canonical form is one: two memories in it that read alike at every slot are equal data. A property of the model's
representation [log 3]. -/
def Obligations.EqualMemoriesAreEqualData : Prop :=
  ∀ m m' : Memory, m.wf → m'.wf → (∀ a : Byte, Memory.read m a = Memory.read m' a) → m = m'

/-- Initialization meets the invariant. -/
def Obligations.ResetMeetsInv : Prop := State.reset.Inv

/-- Every step keeps the invariant, from every state that has it: the memory's canonical form [log 3], and that the byte on the
response port is the last one recorded [log 6]. -/
def Obligations.StepKeepsInv : Prop := ∀ s t : State, s.Inv → step s = .next t → t.Inv

/-! ### Runs -/

/-- One step refines the transition table of spec/42_finish.md, which the spec marks as its own derivation: for every event in every
state the machine's step gives a next state whose block, response and record are the table's. -/
def Obligations.StepRefinesTheTransitionTable : Prop :=
  ∀ (s : State) (e : Event) (rest : List EventWord),
    ∃ t, step { s with pending := encodeEvent e :: rest } = .next t ∧
      t.block = s.block.step e ∧ t.rsp = s.block.out e ∧
      t.responses = s.responses ++ (s.block.out e).toList ∧
      t.pending = rest ∧ t.slaveAddr = s.slaveAddr

/-- A run refines the transition table of spec/42_finish.md on every finite trace from every state: it ends in a next state whose block
and responses are those of the table run on the trace (spec/70_reset_and_hazards.md, section 5, the spec's own definition of
a run, its decision D19). -/
def Obligations.RunRefinesTheTransitionTable : Prop :=
  ∀ (es : List Event) (s : State),
    ∃ t, runTrace es s = .next t ∧
      t.block = s.block.run es ∧ t.responses = s.responses ++ s.block.outs es ∧
      t.pending = [] ∧ t.slaveAddr = s.slaveAddr

/-- The invariant of spec/10_state.md, section 2, in terms of events, which the spec marks as its own derivation: after a trace from
initialization the flag is true exactly when some `ByteReceived` comes after the last `Finished`. -/
def Obligations.FlagTrueIffByteReceivedSinceFinished : Prop :=
  ∀ es : List Event, ∃ t, runTrace es State.reset = .next t ∧
    (t.latched = true ↔ ∃ pre v post, es = pre ++ Event.byteReceived v :: post ∧ Event.finished ∉ post)

/-- Every value of `(mem, cursor, latched)` is reached from initialization, whatever `MEM_INIT` is, by the trace that spec/10_state.md,
section 7, gives (the spec's own derivation). -/
def Obligations.EveryBlockIsReachable : Prop :=
  ∀ (m : Byte → Byte) (c : Byte) (l : Bool),
    ∃ t, runTrace
        (.byteReceived 0 :: (List.range 256).map (fun i => Event.byteReceived (m (BitVec.ofNat 8 i)))
          ++ [.finished, .byteReceived c] ++ (if l then [] else [.finished])) State.reset = .next t ∧
      t.block = { slots := m, cursor := c, latched := l }

/-- The write-burst law of spec/40_receive.md, which the spec marks as derived by induction: the cursor afterwards, the flag, each slot
by the last data byte that reaches it, and for at most 256 data bytes every byte in its slot. -/
def Obligations.WriteBurstFillsConsecutiveSlots : Prop :=
  ∀ (s : State) (a : Byte) (ds : List Byte), s.latched = false →
    ∃ t, runTrace (.byteReceived a :: ds.map .byteReceived) s = .next t ∧
      t.cursor = a + BitVec.ofNat 8 ds.length ∧ t.latched = true ∧ t.responses = s.responses ∧
      (∀ (j : Nat) (hj : j < ds.length),
        (∀ k, j < k → k < ds.length → a + BitVec.ofNat 8 k ≠ a + BitVec.ofNat 8 j) →
          t.memRead (a + BitVec.ofNat 8 j) = ds[j]) ∧
      (∀ b, (∀ j, j < ds.length → a + BitVec.ofNat 8 j ≠ b) → t.memRead b = s.memRead b) ∧
      (ds.length ≤ 256 → ∀ (j : Nat) (hj : j < ds.length), t.memRead (a + BitVec.ofNat 8 j) = ds[j])

/-- The read-burst law of spec/41_request.md, which the spec marks as derived by induction. -/
def Obligations.ReadBurstServesConsecutiveSlots : Prop :=
  ∀ (s : State) (k : Nat),
    ∃ t, runTrace (List.replicate k .byteRequested) s = .next t ∧
      t.responses = s.responses ++ (List.range k).map (fun i => s.memRead (s.cursor + BitVec.ofNat 8 i)) ∧
      t.cursor = s.cursor + BitVec.ofNat 8 k ∧ t.mem = s.mem ∧ t.latched = s.latched

/-- The split-read law of spec/41_request.md, which the spec marks as its own derivation: a read in two parts, with or without a
`Finished` between them, gives the bytes, the memory and the cursor of the read in one. -/
def Obligations.SplitReadEqualsUnsplitRead : Prop :=
  ∀ (s : State) (j n : Nat) (between : Bool),
    ∃ t u,
      runTrace (List.replicate j .byteRequested ++ (if between then [Event.finished] else []) ++
        List.replicate n .byteRequested) s = .next t ∧
      runTrace (List.replicate (j + n) .byteRequested) s = .next u ∧
      t.responses = u.responses ∧ t.mem = u.mem ∧ t.cursor = u.cursor ∧
      t.latched = if between then false else s.latched

/-- The cursor persists across a transaction boundary (spec/42_finish.md, the paragraph on it, which the spec marks as its own
derivation): after a write of `x` at 5 and a `Finished`, a request is served from slot 6. -/
def Obligations.CursorPersistsAcrossFinished : Prop :=
  ∀ (s : State) (x : Byte), s.latched = false →
    ∃ t, runTrace [.byteReceived 5, .byteReceived x, .finished, .byteRequested] s = .next t ∧
      t.rsp = some (s.memRead 6) ∧ t.cursor = 7 ∧ t.latched = false ∧ t.memRead 5 = x

/-- No byte held in `mem` influences how an event is interpreted (spec/20_memory.md, section 5, point (b), which the spec marks as its
own derivation): two states that agree on the cursor and the flag agree on them after any trace, whatever their memories. -/
def Obligations.MemoryNeverSteersTheBlock : Prop :=
  ∀ (s s' : State) (es : List Event), s.cursor = s'.cursor → s.latched = s'.latched →
    ∃ t t', runTrace es s = .next t ∧ runTrace es s' = .next t' ∧ t.cursor = t'.cursor ∧ t.latched = t'.latched

/-- Reads straight after initialization, with no address byte, are served `MEM_INIT(0), MEM_INIT(1), ...` in order, whatever
`MEM_INIT` is (spec/70_reset_and_hazards.md, section 1, the spec's own derivation from its decision that the cursor starts at 0
[log 1, 4]). -/
def Obligations.ReadsFromResetServeInitialContents : Prop :=
  ∀ k : Nat, ∃ t, runTrace (List.replicate k .byteRequested) State.reset = .next t ∧
    t.responses = (List.range k).map (fun i => Config.memInit (BitVec.ofNat 8 i))

/-! ### Bus operations and the driver (the block's environment) -/

/-- Selection and fidelity of the Transport (spec/43_bus_operations.md, sections 1 and 2, which the spec marks as derived and decided
[log 9]): operations addressed elsewhere cause no event; of the others every byte sent is received, in order and unchanged, and
there is one request per byte taken; without `FINISH_ON_RESTART` there is one `Finished` per operation that releases the bus. -/
def Obligations.TransportDeliversEachByteOnce : Prop :=
  ∀ (restart : Bool) (sa : BusAddr) (ops : List BusOp),
    (busTrace restart sa ops).filterMap (fun e => match e with | .byteReceived v => some v | _ => none) =
      (ops.filter (fun op => op.target = sa)).flatMap BusOp.sent ∧
    (busTrace restart sa ops).count .byteRequested =
      ((ops.filter (fun op => op.target = sa)).map BusOp.taken).sum ∧
    (busTrace false sa ops).count .finished = (ops.filter (fun op => op.target = sa)).countP (fun op => !op.keepBus) ∧
    ((∀ op ∈ ops, op.target ≠ sa) → busTrace restart sa ops = [])

/-- The one place where `FINISH_ON_RESTART` shows (spec/43_bus_operations.md, section 2, the example of its decision D8 [log 9]):
`WRITE.KEEP [a, x]`, `WRITE [b, y]` under both values. -/
def Obligations.RestartFinishDecidesTheSecondAddress : Prop :=
  ∀ (s : State) (a x b y : Byte), s.latched = false →
    (∃ t, runTrace (busTrace true s.slaveAddr [opWriteKeep s.slaveAddr [a, x], opWrite s.slaveAddr [b, y]]) s = .next t ∧
      t.memRead b = y ∧ (a ≠ b → t.memRead a = x) ∧ t.cursor = b + 1 ∧ t.latched = false) ∧
    (∃ t, runTrace (busTrace false s.slaveAddr [opWriteKeep s.slaveAddr [a, x], opWrite s.slaveAddr [b, y]]) s = .next t ∧
      t.memRead a = x ∧ t.memRead (a + 1) = b ∧ t.memRead (a + 2) = y ∧ t.cursor = a + 3 ∧ t.latched = false)

/-- The seek law (spec/43_bus_operations.md, section 4, the spec's own derivation): `SEEK a` sets the cursor and changes nothing
else. -/
def Obligations.SeekSetsOnlyTheCursor : Prop :=
  ∀ (restart : Bool) (s : State) (a : Byte), s.latched = false →
    runTrace (busTrace restart s.slaveAddr [opSeek s.slaveAddr a]) s =
      .next { s with cursor := a, pending := [], rsp := none }

/-- Write then read back (spec/43_bus_operations.md, section 4, the corrected reading of the document's first property, the spec's own
derivation): after the seek back, `i` requests return the first `i` data bytes and leave the cursor `i` after the start; under both
values of `FINISH_ON_RESTART` and with the bus kept or released after the seek. -/
def Obligations.WriteThenReadBackReturnsTheData : Prop :=
  ∀ (restart keep : Bool) (s : State) (a : Byte) (ds : List Byte) (i : Nat),
    s.latched = false → ds.length ≤ 256 → i ≤ ds.length →
      ∃ t, runTrace (busTrace restart s.slaveAddr
          [opWrite s.slaveAddr (a :: ds), .write s.slaveAddr [a] keep, opRead s.slaveAddr i]) s = .next t ∧
        t.responses = s.responses ++ ds.take i ∧ t.cursor = a + BitVec.ofNat 8 i ∧ t.latched = false

/-- One driver iteration across the whole machine (spec/43_bus_operations.md, section 3, the spec's own derivation): for payloads of 1 to
256 bytes, any split, any offset and both values of `FINISH_ON_RESTART`, the operations of an iteration are those the driver issues
in its four phases, they cause `2L + 4` or `2L + 6` events, the payload ends in its slots, every other slot is unchanged, the reads
return the payload, and the driver's checks pass, so that it goes on to the next offset. -/
def Obligations.DriverIterationSucceeds : Prop :=
  ∀ (restart : Bool) (s : State) (d : Driver),
    s.latched = false → d.phase = .write → d.params.wellFormed = true → d.params.payload.length ≤ 256 →
      [DriverPhase.write, .seek, .readA, .readB].filterMap (fun ph => Driver.nextOp s.slaveAddr { d with phase := ph }) =
        d.iterationOps s.slaveAddr ∧
      (busTrace restart s.slaveAddr (d.iterationOps s.slaveAddr)).length =
        2 * d.params.payload.length + (if restart then 6 else 4) ∧
      ∃ t, runTrace (busTrace restart s.slaveAddr (d.iterationOps s.slaveAddr)) s = .next t ∧
        (∀ (i : Nat) (hi : i < d.params.payload.length),
          t.memRead (d.offset + BitVec.ofNat 8 i) = d.params.payload[i]) ∧
        (∀ b, (∀ i, i < d.params.payload.length → d.offset + BitVec.ofNat 8 i ≠ b) → t.memRead b = s.memRead b) ∧
        t.cursor = d.offset + BitVec.ofNat 8 d.params.payload.length ∧ t.latched = false ∧
        t.responses = s.responses ++ d.params.payload ∧
        (busResults s.slaveAddr (d.iterationOps s.slaveAddr) d.params.payload).foldl Driver.observe d =
          { d with offset := d.offset + 32 }

/-- The driver's failures (spec/43_bus_operations.md, section 3): a short write, a short read or an error stops it with
`TransportFault`, read bytes of the right number that differ from the payload's stop it with `DataMismatch`, and once stopped it
issues no operation and stays stopped. The names are the spec's own choice, its decision D16 [log 12]. -/
def Obligations.DriverStopsOnShortTransferOrMismatch : Prop :=
  (∀ (d : Driver) (n : Nat), d.phase = .write → n < d.params.payload.length + 1 →
    (d.observe (.wrote n)).phase = .halted .transportFault) ∧
  (∀ d : Driver, d.phase = .seek → (d.observe (.wrote 0)).phase = .halted .transportFault) ∧
  (∀ d : Driver, (∀ why, d.phase ≠ .halted why) → (d.observe .error).phase = .halted .transportFault) ∧
  (∀ (d : Driver) (bs : List Byte), d.params.wellFormed = true → d.phase = .readA →
    (bs.length < d.params.split → (d.observe (.got bs)).phase = .halted .transportFault) ∧
    (bs.length = d.params.split → bs ≠ d.params.payload.take d.params.split →
      (d.observe (.got bs)).phase = .halted .dataMismatch)) ∧
  (∀ (d : Driver) (bs : List Byte), d.phase = .readB →
    (bs.length < d.params.payload.length - d.params.split → (d.observe (.got bs)).phase = .halted .transportFault) ∧
    (bs.length = d.params.payload.length - d.params.split → bs ≠ d.params.payload.drop d.params.split →
      (d.observe (.got bs)).phase = .halted .dataMismatch)) ∧
  (∀ (d : Driver) (why : DriverFailure) (rs : List BusResult) (sa : BusAddr), d.phase = .halted why →
    rs.foldl Driver.observe d = d ∧ d.nextOp sa = none)

/-- The offsets of the driver's iterations (spec/43_bus_operations.md, section 3, the spec's own derivation): iteration `k` is at
`(OFFSET_INIT + 32 k) mod 256`, a sequence of period 8 with 8 distinct values. -/
def Obligations.DriverOffsetsHavePeriodEight : Prop :=
  ∀ (p : DriverParams) (k : Nat),
    (Driver.nextIteration^[k] (Driver.start p)).offset.toNat = (p.offsetInit.toNat + 32 * k) % 256 ∧
    ∀ j, (Driver.nextIteration^[j] (Driver.start p)).offset = (Driver.nextIteration^[k] (Driver.start p)).offset ↔
      j % 8 = k % 8
end

