-- ==== Sys2Proof/Laws/Decode.lean ====
section
/-! SUPPORT. The fields of an encoded word, and that an event's word decodes to the event. -/

namespace Sys2Proof

@[simp] theorem kindField_setWidth (v : Byte) : kindField (v.setWidth 10) = 0 := by
  revert v; decide

@[simp] theorem dataField_setWidth (v : Byte) : dataField (v.setWidth 10) = v := by
  revert v; decide

/-- The event of an event's word (spec/30_encoding.md R53). -/
@[simp] theorem decodeEvent_encodeEvent (e : Event) : decodeEvent (encodeEvent e) = .ok e := by
  cases e with
  | byteReceived v => simp [encodeEvent, decodeEvent]
  | byteRequested => decide
  | finished => decide

/-- The operation that the mode selects for an event's word. -/
@[simp] theorem decodeIn_encodeEvent (latched : Bool) (e : Event) :
    decodeIn latched (encodeEvent e) = .ok (operationOf latched e) := by
  simp [decodeIn]

end Sys2Proof
end

