-- ==== Sys2Proof/Laws/State.lean ====
section
/-! SUPPORT. One lemma per field per update of State, so that no later proof unfolds a record update. -/

namespace Sys2Proof.Machine

/-! ### `State.memWrite` -/

@[simp] theorem State.memWrite_mem (s : State) (a v : Byte) : (s.memWrite a v).mem = Memory.write s.mem a v := rfl
@[simp] theorem State.memWrite_cursor (s : State) (a v : Byte) : (s.memWrite a v).cursor = s.cursor := rfl
@[simp] theorem State.memWrite_latched (s : State) (a v : Byte) : (s.memWrite a v).latched = s.latched := rfl
@[simp] theorem State.memWrite_slaveAddr (s : State) (a v : Byte) : (s.memWrite a v).slaveAddr = s.slaveAddr := rfl
@[simp] theorem State.memWrite_pending (s : State) (a v : Byte) : (s.memWrite a v).pending = s.pending := rfl
@[simp] theorem State.memWrite_rsp (s : State) (a v : Byte) : (s.memWrite a v).rsp = s.rsp := rfl
@[simp] theorem State.memWrite_responses (s : State) (a v : Byte) : (s.memWrite a v).responses = s.responses := rfl

/-! ### `State.setCursor` -/

@[simp] theorem State.setCursor_mem (s : State) (v : Byte) : (s.setCursor v).mem = s.mem := rfl
@[simp] theorem State.setCursor_cursor (s : State) (v : Byte) : (s.setCursor v).cursor = v := rfl
@[simp] theorem State.setCursor_latched (s : State) (v : Byte) : (s.setCursor v).latched = s.latched := rfl
@[simp] theorem State.setCursor_slaveAddr (s : State) (v : Byte) : (s.setCursor v).slaveAddr = s.slaveAddr := rfl
@[simp] theorem State.setCursor_pending (s : State) (v : Byte) : (s.setCursor v).pending = s.pending := rfl
@[simp] theorem State.setCursor_rsp (s : State) (v : Byte) : (s.setCursor v).rsp = s.rsp := rfl
@[simp] theorem State.setCursor_responses (s : State) (v : Byte) : (s.setCursor v).responses = s.responses := rfl

/-! ### `State.advance` -/

@[simp] theorem State.advance_mem (s : State) : (s.advance).mem = s.mem := rfl
@[simp] theorem State.advance_cursor (s : State) : (s.advance).cursor = inc8 s.cursor := rfl
@[simp] theorem State.advance_latched (s : State) : (s.advance).latched = s.latched := rfl
@[simp] theorem State.advance_slaveAddr (s : State) : (s.advance).slaveAddr = s.slaveAddr := rfl
@[simp] theorem State.advance_pending (s : State) : (s.advance).pending = s.pending := rfl
@[simp] theorem State.advance_rsp (s : State) : (s.advance).rsp = s.rsp := rfl
@[simp] theorem State.advance_responses (s : State) : (s.advance).responses = s.responses := rfl

/-! ### `State.respond` -/

@[simp] theorem State.respond_mem (s : State) (b : Byte) : (s.respond b).mem = s.mem := rfl
@[simp] theorem State.respond_cursor (s : State) (b : Byte) : (s.respond b).cursor = s.cursor := rfl
@[simp] theorem State.respond_latched (s : State) (b : Byte) : (s.respond b).latched = s.latched := rfl
@[simp] theorem State.respond_slaveAddr (s : State) (b : Byte) : (s.respond b).slaveAddr = s.slaveAddr := rfl
@[simp] theorem State.respond_pending (s : State) (b : Byte) : (s.respond b).pending = s.pending := rfl
@[simp] theorem State.respond_rsp (s : State) (b : Byte) : (s.respond b).rsp = some b := rfl
@[simp] theorem State.respond_responses (s : State) (b : Byte) : (s.respond b).responses = s.responses ++ [b] := rfl

/-! ### `State.noResponse` -/

@[simp] theorem State.noResponse_mem (s : State) : (s.noResponse).mem = s.mem := rfl
@[simp] theorem State.noResponse_cursor (s : State) : (s.noResponse).cursor = s.cursor := rfl
@[simp] theorem State.noResponse_latched (s : State) : (s.noResponse).latched = s.latched := rfl
@[simp] theorem State.noResponse_slaveAddr (s : State) : (s.noResponse).slaveAddr = s.slaveAddr := rfl
@[simp] theorem State.noResponse_pending (s : State) : (s.noResponse).pending = s.pending := rfl
@[simp] theorem State.noResponse_rsp (s : State) : (s.noResponse).rsp = none := rfl
@[simp] theorem State.noResponse_responses (s : State) : (s.noResponse).responses = s.responses := rfl

/-! ### `State.bind` -/

@[simp] theorem State.bind_mem (s : State) (a : BusAddr) : (s.bind a).mem = s.mem := rfl
@[simp] theorem State.bind_cursor (s : State) (a : BusAddr) : (s.bind a).cursor = s.cursor := rfl
@[simp] theorem State.bind_latched (s : State) (a : BusAddr) : (s.bind a).latched = s.latched := rfl
@[simp] theorem State.bind_slaveAddr (s : State) (a : BusAddr) : (s.bind a).slaveAddr = a := rfl
@[simp] theorem State.bind_pending (s : State) (a : BusAddr) : (s.bind a).pending = s.pending := rfl
@[simp] theorem State.bind_rsp (s : State) (a : BusAddr) : (s.bind a).rsp = s.rsp := rfl
@[simp] theorem State.bind_responses (s : State) (a : BusAddr) : (s.bind a).responses = s.responses := rfl

/-! ### `State.consume` -/

@[simp] theorem State.consume_mem (s : State) (rest : List EventWord) : (s.consume rest).mem = s.mem := rfl
@[simp] theorem State.consume_cursor (s : State) (rest : List EventWord) : (s.consume rest).cursor = s.cursor := rfl
@[simp] theorem State.consume_latched (s : State) (rest : List EventWord) : (s.consume rest).latched = s.latched := rfl
@[simp] theorem State.consume_slaveAddr (s : State) (rest : List EventWord) : (s.consume rest).slaveAddr = s.slaveAddr := rfl
@[simp] theorem State.consume_pending (s : State) (rest : List EventWord) : (s.consume rest).pending = rest := rfl
@[simp] theorem State.consume_rsp (s : State) (rest : List EventWord) : (s.consume rest).rsp = s.rsp := rfl
@[simp] theorem State.consume_responses (s : State) (rest : List EventWord) : (s.consume rest).responses = s.responses := rfl

/-! ### `State.idle` -/

@[simp] theorem State.idle_mem (s : State) : (s.idle).mem = s.mem := rfl
@[simp] theorem State.idle_cursor (s : State) : (s.idle).cursor = s.cursor := rfl
@[simp] theorem State.idle_latched (s : State) : (s.idle).latched = s.latched := rfl
@[simp] theorem State.idle_slaveAddr (s : State) : (s.idle).slaveAddr = s.slaveAddr := rfl
@[simp] theorem State.idle_pending (s : State) : (s.idle).pending = s.pending := rfl
@[simp] theorem State.idle_rsp (s : State) : (s.idle).rsp = none := rfl
@[simp] theorem State.idle_responses (s : State) : (s.idle).responses = s.responses := rfl

/-! ### `State.latch` -/

@[simp] theorem State.latch_mem (s : State) : (s.latch).mem = s.mem := rfl
@[simp] theorem State.latch_cursor (s : State) : (s.latch).cursor = s.cursor := rfl
@[simp] theorem State.latch_latched (s : State) : (s.latch).latched = true := rfl
@[simp] theorem State.latch_slaveAddr (s : State) : (s.latch).slaveAddr = s.slaveAddr := rfl
@[simp] theorem State.latch_pending (s : State) : (s.latch).pending = s.pending := rfl
@[simp] theorem State.latch_rsp (s : State) : (s.latch).rsp = s.rsp := rfl
@[simp] theorem State.latch_responses (s : State) : (s.latch).responses = s.responses := rfl

/-! ### `State.unlatch` -/

@[simp] theorem State.unlatch_mem (s : State) : (s.unlatch).mem = s.mem := rfl
@[simp] theorem State.unlatch_cursor (s : State) : (s.unlatch).cursor = s.cursor := rfl
@[simp] theorem State.unlatch_latched (s : State) : (s.unlatch).latched = false := rfl
@[simp] theorem State.unlatch_slaveAddr (s : State) : (s.unlatch).slaveAddr = s.slaveAddr := rfl
@[simp] theorem State.unlatch_pending (s : State) : (s.unlatch).pending = s.pending := rfl
@[simp] theorem State.unlatch_rsp (s : State) : (s.unlatch).rsp = s.rsp := rfl
@[simp] theorem State.unlatch_responses (s : State) : (s.unlatch).responses = s.responses := rfl

/-! ### `State.withEvents` -/

@[simp] theorem State.withEvents_mem (s : State) (es : List Event) : (s.withEvents es).mem = s.mem := rfl
@[simp] theorem State.withEvents_cursor (s : State) (es : List Event) : (s.withEvents es).cursor = s.cursor := rfl
@[simp] theorem State.withEvents_latched (s : State) (es : List Event) : (s.withEvents es).latched = s.latched := rfl
@[simp] theorem State.withEvents_slaveAddr (s : State) (es : List Event) : (s.withEvents es).slaveAddr = s.slaveAddr := rfl
@[simp] theorem State.withEvents_pending (s : State) (es : List Event) : (s.withEvents es).pending = es.map encodeEvent := rfl
@[simp] theorem State.withEvents_rsp (s : State) (es : List Event) : (s.withEvents es).rsp = s.rsp := rfl
@[simp] theorem State.withEvents_responses (s : State) (es : List Event) : (s.withEvents es).responses = s.responses := rfl

/-! ### What a slot reads as after an update that is no store -/

@[simp] theorem State.setCursor_memRead (s : State) (x : Byte) (a : Byte) : (s.setCursor x).memRead a = s.memRead a := rfl
@[simp] theorem State.advance_memRead (s : State) (a : Byte) : (s.advance).memRead a = s.memRead a := rfl
@[simp] theorem State.respond_memRead (s : State) (x : Byte) (a : Byte) : (s.respond x).memRead a = s.memRead a := rfl
@[simp] theorem State.noResponse_memRead (s : State) (a : Byte) : (s.noResponse).memRead a = s.memRead a := rfl
@[simp] theorem State.bind_memRead (s : State) (x : BusAddr) (a : Byte) : (s.bind x).memRead a = s.memRead a := rfl
@[simp] theorem State.consume_memRead (s : State) (rest : List EventWord) (a : Byte) : (s.consume rest).memRead a = s.memRead a := rfl
@[simp] theorem State.idle_memRead (s : State) (a : Byte) : (s.idle).memRead a = s.memRead a := rfl
@[simp] theorem State.latch_memRead (s : State) (a : Byte) : (s.latch).memRead a = s.memRead a := rfl
@[simp] theorem State.unlatch_memRead (s : State) (a : Byte) : (s.unlatch).memRead a = s.memRead a := rfl
@[simp] theorem State.withEvents_memRead (s : State) (es : List Event) (a : Byte) : (s.withEvents es).memRead a = s.memRead a := rfl

end Sys2Proof.Machine
end

