-- ==== Sys2Proof/Laws/Memory.lean ====
section
/-! SUPPORT. What the memory operations do: a read after a write, and that a write keeps the canonical form. -/

namespace Sys2Proof.Machine

theorem Memory.find_none_of_lt {m : Memory} {k : Nat} (h : ∀ c ∈ m, k < c.1) : Memory.find m k = none := by
  induction m with
  | nil => rfl
  | cons c m ih =>
    obtain ⟨k', v⟩ := c
    have hk : k' ≠ k := by have := h (k', v) (by simp); simp at this; omega
    simpa [Memory.find, hk] using ih fun d hd => h d (List.mem_cons_of_mem _ hd)

theorem Memory.find_put (m : Memory) (k j : Nat) (v : Byte) :
    Memory.find (Memory.put m k v) j = if k = j then some v else Memory.find m j := by
  induction m with
  | nil => simp [Memory.put, Memory.find]
  | cons c m ih =>
    obtain ⟨k', v'⟩ := c
    simp only [Memory.put]
    split
    · simp [Memory.find]
    · split
      · subst_vars; by_cases h : k' = j <;> simp [Memory.find, h]
      · by_cases h : k' = j
        · subst h; simp [Memory.find, *]
        · simp [Memory.find, h, ih]

theorem Memory.find_erase (m : Memory) (k j : Nat) :
    Memory.find (Memory.erase m k) j = if k = j then none else Memory.find m j := by
  induction m with
  | nil => simp [Memory.erase, Memory.find]
  | cons c m ih =>
    obtain ⟨k', v'⟩ := c
    have step : Memory.erase ((k', v') :: m) k =
        if k' = k then Memory.erase m k else (k', v') :: Memory.erase m k := by
      by_cases h : k' = k <;> simp [Memory.erase, h]
    rw [step]
    by_cases h : k' = k
    · subst h
      by_cases hj : k' = j
      · subst hj; simpa using ih
      · simp [Memory.find, ih, hj]
    · by_cases hj : k' = j
      · subst hj; simp [Memory.find, h, Ne.symm h]
      · simp [Memory.find, h, hj, ih]

/-- A read after a write: the written slot reads as written, every other slot as before (spec/00_scope.md R8). -/
theorem Memory.read_write (m : Memory) (a b v : Byte) :
    Memory.read (Memory.write m a v) b = if b = a then v else Memory.read m b := by
  have key : (a.toNat = b.toNat) ↔ b = a := by rw [BitVec.toNat_inj]; exact eq_comm
  unfold Memory.write Memory.read
  split
  · rename_i hv
    by_cases h : b = a
    · subst h; simp [Memory.find_erase, hv]
    · simp [Memory.find_erase, key, h]
  · by_cases h : b = a
    · subst h; simp [Memory.find_put]
    · simp [Memory.find_put, key, h]

theorem Memory.read_write_self (m : Memory) (a v : Byte) : Memory.read (Memory.write m a v) a = v := by
  simp [Memory.read_write]

theorem Memory.read_write_other (m : Memory) {a b : Byte} (v : Byte) (h : b ≠ a) :
    Memory.read (Memory.write m a v) b = Memory.read m b := by
  simp [Memory.read_write, h]

theorem Memory.mem_put {m : Memory} {k : Nat} {v : Byte} {c : Host.Cell} (h : c ∈ Memory.put m k v) :
    c = (k, v) ∨ c ∈ m := by
  induction m with
  | nil => simpa [Memory.put] using h
  | cons d m ih =>
    simp only [Memory.put] at h
    split at h
    · simpa using h
    · split at h
      · rcases List.mem_cons.1 h with h | h <;> simp [h]
      · rcases List.mem_cons.1 h with h | h
        · simp [h]
        · rcases ih h with h | h <;> simp [h]

theorem Memory.put_sorted {m : Memory} (k : Nat) (v : Byte) (h : m.Pairwise fun c d => c.1 < d.1) :
    (Memory.put m k v).Pairwise fun c d => c.1 < d.1 := by
  induction m with
  | nil => simp [Memory.put]
  | cons d m ih =>
    obtain ⟨hd, hm⟩ := List.pairwise_cons.1 h
    simp only [Memory.put]
    split
    · rename_i hk
      refine List.pairwise_cons.2 ⟨fun c hc => ?_, h⟩
      rcases List.mem_cons.1 hc with rfl | hc
      · exact hk
      · exact lt_trans hk (hd c hc)
    · split
      · rename_i _ hk
        exact List.pairwise_cons.2 ⟨fun c hc => hk ▸ hd c hc, hm⟩
      · refine List.pairwise_cons.2 ⟨fun c hc => ?_, ih hm⟩
        rcases Memory.mem_put hc with rfl | hc
        · show d.1 < k; omega
        · exact hd c hc

theorem Memory.put_wf {m : Memory} {k : Nat} {v : Byte} (h : m.wf) (hk : k < Config.memSize)
    (hv : v ≠ Memory.unlisted k) : (Memory.put m k v).wf := by
  refine ⟨Memory.put_sorted k v h.1, fun c hc => ?_⟩
  rcases Memory.mem_put hc with rfl | hc
  · exact ⟨hk, hv⟩
  · exact h.2 c hc

theorem Memory.erase_wf {m : Memory} (k : Nat) (h : m.wf) : (Memory.erase m k).wf :=
  ⟨h.1.filter _, fun c hc => h.2 c (List.mem_of_mem_filter hc)⟩

/-- Every memory operation that writes keeps the canonical form. -/
theorem Memory.write_wf {m : Memory} (a v : Byte) (h : m.wf) : (Memory.write m a v).wf := by
  unfold Memory.write
  split
  · exact Memory.erase_wf _ h
  · exact Memory.put_wf h a.isLt ‹_›

/-- The memory right after INIT lists nothing and has the canonical form. -/
theorem Memory.wf_nil : Memory.wf [] := by simp [Memory.wf]

/-- A slot that is not listed reads as `MEM_INIT` says. -/
theorem Memory.read_nil (a : Byte) : Memory.read [] a = Config.memInit a := by
  simp [Memory.read, Memory.find, Memory.unlisted]

@[simp] theorem State.memRead_memWrite (s : State) (a b v : Byte) :
    (s.memWrite a v).memRead b = if b = a then v else s.memRead b :=
  Memory.read_write s.mem a b v

end Sys2Proof.Machine
end

