-- ==== Sys2Proof/Laws/Ops.lean ====
section
/-! SUPPORT. What each shared operation, the fetch, a meaning and a step can do, said once each. -/

namespace Sys2Proof.Machine

/-- All that the address byte does. -/
theorem latchAddress_eq (v : Byte) (s : State) :
    latchAddress v s = { s with cursor := v, latched := true, rsp := none } := rfl

/-- All that a data byte does. -/
theorem storeData_eq (v : Byte) (s : State) :
    storeData v s = { s with mem := Memory.write s.mem s.cursor v, cursor := inc8 s.cursor, rsp := none } := rfl

@[simp] theorem storeData_memRead (v a : Byte) (s : State) :
    (storeData v s).memRead a = if a = s.cursor then v else s.memRead a :=
  Memory.read_write s.mem s.cursor a v

/-- The fetch with an event's word at the head of the event port. -/
theorem fetch_event {s : State} {e : Event} {rest : List EventWord} (h : s.pending = encodeEvent e :: rest) :
    fetch s = .event (operationOf s.latched e) rest := by
  simp [fetch, h]

/-- Where the fetch gives an operation, the head of the event port is its word in the block's mode. -/
theorem fetch_eq_event {s : State} {i : Instr} {rest : List EventWord} (h : fetch s = .event i rest) :
    ∃ w, s.pending = w :: rest ∧ decodeIn s.latched w = .ok i := by
  unfold fetch at h
  split at h
  · cases h
  · rename_i w ws hp
    split at h
    · rename_i j hj
      cases h
      exact ⟨w, hp, hj⟩
    · cases h

theorem fetch_eq_nothing {s : State} (h : fetch s = .nothing) : s.pending = [] := by
  unfold fetch at h
  split at h
  · assumption
  · split at h <;> cases h

/-- All that a meaning can do. -/
theorem exec_cases {i : Instr} {s t : State} (h : exec i s = .next t) :
    (∃ v, (i = .recvAddr v ∨ i = .recvData v) ∧ s.latched = false ∧ t = latchAddress v s) ∨
    (∃ v, (i = .recvAddr v ∨ i = .recvData v) ∧ s.latched = true ∧ t = storeData v s) ∨
    (i = .req ∧ t = (s.respond (s.memRead s.cursor)).advance) ∨
    (i = .fin ∧ t = s.unlatch.noResponse) := by
  cases i with
  | recvAddr v =>
    cases hl : s.latched <;> simp [exec, execRecvAddr, hl] at h
    · exact .inl ⟨v, .inl rfl, rfl, h.symm⟩
    · exact .inr (.inl ⟨v, .inl rfl, rfl, h.symm⟩)
  | recvData v =>
    cases hl : s.latched <;> simp [exec, execRecvData, hl] at h
    · exact .inl ⟨v, .inr rfl, rfl, h.symm⟩
    · exact .inr (.inl ⟨v, .inr rfl, rfl, h.symm⟩)
  | req =>
    simp only [exec, execReq, effectiveAddress, Host.Outcome.next.injEq] at h
    exact .inr (.inr (.inl ⟨rfl, h.symm⟩))
  | fin =>
    simp only [exec, execFin, Host.Outcome.next.injEq] at h
    exact .inr (.inr (.inr ⟨rfl, h.symm⟩))

/-- All that a step can do when it gives a next state. -/
theorem step_cases {s t : State} (h : step s = .next t) :
    (s.pending = [] ∧ t = s.idle) ∨
    ∃ i w rest, s.pending = w :: rest ∧ decodeIn s.latched w = .ok i ∧ exec i (s.consume rest) = .next t := by
  unfold step at h
  split at h
  · rename_i hf
    cases h
    exact .inl ⟨fetch_eq_nothing hf, rfl⟩
  · cases h
  · rename_i i rest hf
    obtain ⟨w, hp, hd⟩ := fetch_eq_event hf
    exact .inr ⟨i, w, rest, hp, hd, h⟩

@[simp] theorem runSteps_zero (s : State) : runSteps 0 s = .next s := rfl

theorem runSteps_succ {s s' : State} (k : Nat) (h : step s = .next s') : runSteps (k + 1) s = runSteps k s' := by
  simp [runSteps, h]

end Sys2Proof.Machine
end

