-- ==== Sys2Proof/Laws/PerInstr.lean ====
section
/-! SUPPORT. A statement about every operation as syntax, one lemma per constructor: the word of an operation has one of the
three formats of spec/30_encoding.md R53, so no operation encodes to a reserved word (R57). -/

namespace Sys2Proof.Laws.EncodesToEventWord

def Statement (i : Instr) : Prop := (encode i).isEvent = true

theorem recvAddr (v : Byte) : Statement (.recvAddr v) := by
  revert v; unfold Statement; decide

theorem recvData (v : Byte) : Statement (.recvData v) := by
  revert v; unfold Statement; decide

theorem req : Statement .req := by unfold Statement; decide

theorem fin : Statement .fin := by unfold Statement; decide

end Sys2Proof.Laws.EncodesToEventWord
end

