-- ==== Sys2Proof/Tests/Slice0.lean ====
section
/-! SUPPORT. Tests of the model. Expected values are the vectors of spec/95_test_vectors.md, named in each docstring, or are
worked out by hand from the rule named. The last part shows, for each statement with hypotheses, concrete values that meet
them. -/

namespace Sys2Proof.Tests

open Sys2Proof Sys2Proof.Machine

/-- A small state: memory as after INIT, the cursor and the flag as given. -/
def at_ (c : Byte) (l : Bool) : State := { State.reset with cursor := c, latched := l }

/-- The same with one word at the event port. -/
def due (c : Byte) (l : Bool) (w : EventWord) : State := { at_ c l with pending := [w] }

/-! ### WellFormed: each check refuses an ill-formed term -/

theorem test_recvAddr_ill_formed_when_latched : (Instr.recvAddr 0x20).wellFormedIn true = false := by decide
theorem test_recvData_ill_formed_when_not_latched : (Instr.recvData 0x20).wellFormedIn false = false := by decide
theorem test_reserved_words_ill_formed :
    ([0x101, 0x1FF, 0x201, 0x2FF, 0x300, 0x3FF] : List EventWord).all (fun w => !w.isEvent) = true := by decide
theorem test_trace_with_reserved_word_ill_formed : traceWellFormed [0x020, 0x101, 0x200] = false := by decide
theorem test_empty_payload_ill_formed : (DriverParams.mk [] 0 0).wellFormed = false := by decide
theorem test_split_of_whole_payload_ill_formed : (DriverParams.mk [1, 2] 2 0).wellFormed = false := by decide

/-- "The three patterns are disjoint" (spec/30_encoding.md R53). -/
theorem test_formats_disjoint : ∀ w : EventWord, (formats.countP fun f => f.has w) ≤ 1 := by decide

/-! ### Decode: each operation's word written out bit by bit from spec/30_encoding.md R53 -/

/-- `00vvvvvvvv`, `v = 0x20`, mode 0 (VA2). -/
theorem test_decode_recvAddr : decodeIn false 0b0000100000 = .ok (.recvAddr 0x20) := by rfl
/-- `00vvvvvvvv`, `v = 0x5A`, mode 1 (VB1). -/
theorem test_decode_recvData : decodeIn true 0b0001011010 = .ok (.recvData 0x5A) := by rfl
/-- `0100000000` (VQ1, VQ3). -/
theorem test_decode_req : decodeIn false 0b0100000000 = .ok .req ∧ decodeIn true 0b0100000000 = .ok .req := ⟨rfl, rfl⟩
/-- `1000000000` (VF1, VF2). -/
theorem test_decode_fin : decodeIn false 0b1000000000 = .ok .fin ∧ decodeIn true 0b1000000000 = .ok .fin := ⟨rfl, rfl⟩
/-- `enc(ByteReceived(0xA5)) = 0x0A5`, `enc(ByteRequested()) = 0x100`, `enc(Finished()) = 0x200` (section 3.5). -/
theorem test_encode_words :
    encodeEvent (.byteReceived 0xA5) = 0x0A5 ∧ encodeEvent .byteRequested = 0x100 ∧ encodeEvent .finished = 0x200 := by decide
/-- "256 `RECV` words, 1 `REQ` word, 1 `FIN` word, 766 reserved words" (section 3.5). -/
theorem test_word_counts : ((List.range 1024).filter fun n => (decodeEvent (BitVec.ofNat 10 n)).isOk).length = 258 := by
  decide +kernel
/-- A table word with a bit above bit 9 is no event word. -/
theorem test_decodeTableWord :
    decodeTableWord 16 0x100 = some .req ∧ decodeTableWord 16 0x0FF = some (.recvAddr 0xFF) ∧
    decodeTableWord 16 0x400 = none ∧ decodeTableWord 16 0x300 = none := by decide
/-- The textual syntax of spec/30_encoding.md R63. -/
theorem test_text : (Event.byteReceived 5).text = "RECV 5" ∧ (Instr.recvData 255).text = "RECV.DATA 255" := by decide

/-! ### One operation on a small state -/

/-- VA2: `(M, 0x07, 0)`, `RECV 0x20` gives `(M, 0x20, 1)`. -/
theorem test_recvAddr : exec (.recvAddr 0x20) (at_ 0x07 false) = .next (at_ 0x20 true) := by rfl
/-- VA4: every byte is a valid address. -/
theorem test_recvAddr_top : exec (.recvAddr 0xFF) (at_ 0x12 false) = .next (at_ 0xFF true) := by rfl
/-- VB2: the last slot is written and the cursor wraps; slot 0 is not touched. -/
theorem test_recvData_wraps : ∃ t, exec (.recvData 0x5A) (at_ 0xFF true) = .next t ∧ t.cursor = 0 ∧ t.latched = true ∧
    t.memRead 0xFF = 0x5A ∧ t.memRead 0x00 = Config.memInit 0x00 :=
  ⟨_, rfl, rfl, rfl, storeData_memRead 0x5A 0xFF (at_ 0xFF true), storeData_memRead 0x5A 0x00 (at_ 0xFF true)⟩
/-- VB5: a byte equal to the cursor is data, not an address. -/
theorem test_recvData_is_no_address : ∃ t, exec (.recvData 0x10) (at_ 0x10 true) = .next t ∧ t.cursor = 0x11 ∧
    t.memRead 0x10 = 0x10 :=
  ⟨_, rfl, rfl, storeData_memRead 0x10 0x10 (at_ 0x10 true)⟩
/-- VQ2: slot 255 is served and the cursor wraps. -/
theorem test_req_wraps : ∃ t, exec .req (at_ 0xFF false) = .next t ∧ t.cursor = 0 ∧ t.latched = false ∧
    t.rsp = some (Config.memInit 0xFF) := ⟨_, rfl, rfl, rfl, rfl⟩
/-- VQ3: the flag stays set, and the byte served is a stored one. -/
theorem test_req_latched : ∃ t, exec .req { at_ 0x06 true with mem := Memory.write [] 0x06 0x9C } = .next t ∧ t.cursor = 0x07 ∧
    t.latched = true ∧ t.rsp = some 0x9C :=
  ⟨_, rfl, rfl, rfl, congrArg some (Memory.read_write_self [] 0x06 0x9C)⟩
/-- VF1: only the flag changes. -/
theorem test_fin : exec .fin (at_ 0x06 true) = .next (at_ 0x06 false) := by rfl
/-- VF2: nothing changes. -/
theorem test_fin_not_latched : exec .fin (at_ 0x06 false) = .next (at_ 0x06 false) := by rfl

/-! ### One step, from the state after INIT -/

/-- The word `0x042` in both modes (section 3.6). -/
theorem test_same_word_two_modes : step (due 0x0B false 0x042) = .next (at_ 0x42 true) ∧
    ∃ t, step (due 0x0B true 0x042) = .next t ∧ t.cursor = 0x0C ∧ t.memRead 0x0B = 0x42 :=
  ⟨rfl, _, rfl, rfl, storeData_memRead 0x42 0x0B (at_ 0x0B true)⟩
/-- VQ6, VF4 and the first event of P3, each as the first event after INIT. -/
theorem test_first_step_from_reset :
    (∃ t, step (State.reset.withFetchWord 16 0x100) = .next t ∧ t.responses = [Config.memInit 0] ∧ t.cursor = 1) ∧
    step (State.reset.withFetchWord 16 0x200) = .next State.reset ∧
    step (State.reset.withFetchWord 16 0x005) = .next (at_ 0x05 true) := ⟨⟨_, rfl, rfl, rfl⟩, rfl, rfl⟩
/-- `ev_valid` is up while an event is due and down after it (spec/30_encoding.md R50). -/
theorem test_event_port : (due 0 true 0x200).evValid = true ∧ (at_ 0 false).evValid = false := ⟨rfl, rfl⟩
/-- Reserved words are refused by name (spec/30_encoding.md R57). -/
theorem test_reserved_refused :
    step (State.reset.withFetchWord 16 0x101) = .refused (.reservedEventWord 0x101 .requestData) ∧
    step (State.reset.withFetchWord 16 0x201) = .refused (.reservedEventWord 0x201 .finishedData) ∧
    step (State.reset.withFetchWord 16 0x300) = .refused (.reservedEventWord 0x300 .kind) := ⟨rfl, rfl, rfl⟩

/-! ### The Transport and the driver -/

/-- VO5, VO6, and S8 and VO9: an operation to `0x17` causes events, one to `0x18` none. -/
theorem test_transport_traces :
    busTrace false Config.exampleSlaveAddr [opSeekKeep 0x17 0x20, opRead 0x17 2] =
      [.byteReceived 0x20, .byteRequested, .byteRequested, .finished] ∧
    busTrace true Config.exampleSlaveAddr [opSeekKeep 0x17 0x20, opRead 0x17 2] =
      [.byteReceived 0x20, .finished, .byteRequested, .byteRequested, .finished] ∧
    busTrace true Config.exampleSlaveAddr [opWrite 0x18 [0x20, 0x01]] = [] := by decide
/-- VO4 and an empty write (D15): one `FIN` when the bus is released. -/
theorem test_zero_length_operations :
    busTrace false 0x17 [opRead 0x17 0] = [.finished] ∧ busTrace true 0x17 [opWrite 0x17 []] = [.finished] := by decide
/-- A session that ends with the bus kept produces no final `FIN` (spec/43_bus_operations.md R96). -/
theorem test_kept_bus_at_the_end : busTrace true 0x17 [opSeekKeep 0x17 0x20] = [.byteReceived 0x20] := by decide
/-- The event words of P5 without `FINISH_ON_RESTART`: 12 events. -/
theorem test_driver_iteration_words :
    (busTrace false 0x17 ((Driver.start ⟨[0x11, 0x22, 0x33, 0x44], 1, 0xFE⟩).iterationOps 0x17)).map encodeEvent =
      [0x0FE, 0x011, 0x022, 0x033, 0x044, 0x200, 0x0FE, 0x100, 0x100, 0x100, 0x100, 0x200] := by decide
/-- "Next iteration's offset: `(0xFE + 32) mod 256 = 0x1E`" (P5). -/
theorem test_driver_next_offset : (Driver.start ⟨[0x11], 0, 0xFE⟩).nextIteration.offset = 0x1E := by decide

/-! ### Witnesses: for each statement with hypotheses, values that meet them -/

theorem witness_RecvAddrLoadsCursorAndLatches : (at_ 0x07 false).latched = false := rfl
theorem witness_RecvDataStoresAtCursorAndAdvances : (at_ 0xFF true).latched = true ∧ (0xFE : Byte) ≠ effectiveAddress (at_ 0xFF true) := by
  decide
theorem witness_RecvInTheOtherModeIsTheOtherRecv : (at_ 0 false).latched = false ∧ (at_ 0 true).latched = true := ⟨rfl, rfl⟩
theorem witness_StepRunsTheDecodedEvent : decodeIn (at_ 0 true).latched 0x0FF = .ok (.recvData 0xFF) := rfl
theorem witness_IdleStepsKeepTheBlock : (at_ 0x33 true).pending = [] := rfl
theorem witness_ReservedWordIsRefused :
    EventWord.isEvent 0x101 = false ∧ EventWord.isEvent 0x2FF = false ∧ EventWord.isEvent 0x300 = false := by decide
theorem witness_DecodeAndEncodeAgree :
    (Instr.recvData 0xFF).wellFormedIn true = true ∧ (Instr.recvAddr 0).wellFormedIn false = true ∧
    decodeIn true 0x100 = .ok .req ∧ decodeIn false 0x0FF = .ok (.recvAddr 0xFF) := ⟨rfl, rfl, rfl, rfl⟩
theorem witness_ModeBitSelectsTheReceiveOperation :
    ((Instr.recvAddr 5).wellFormedIn (at_ 0 false).latched = true ∧ exec (.recvAddr 5) (at_ 0 false) = .next (at_ 5 true)) ∧
    ((Instr.recvData 5).wellFormedIn (at_ 0 true).latched = true ∧
      exec (.recvData 5) (at_ 0 true) = .next (storeData 5 (at_ 0 true))) ∧
    (Instr.req.wellFormedIn (at_ 0 true).latched = true ∧
      exec .req (at_ 0 true) = .next ((at_ 0 true).respond (Config.memInit 0)).advance) ∧
    (Instr.fin.wellFormedIn (at_ 0 true).latched = true ∧ exec .fin (at_ 0 true) = .next (at_ 0 false)) :=
  ⟨⟨rfl, rfl⟩, ⟨rfl, rfl⟩, ⟨rfl, rfl⟩, ⟨rfl, rfl⟩⟩
theorem witness_EveryEventIsHandledInEveryState : (at_ 0xFF false).latched = false ∧ (at_ 0xFF true).latched = true := ⟨rfl, rfl⟩
theorem witness_SlotsAreIndependent :
    (0xFF : Byte) ≠ 0x00 ∧ exec .req (at_ 0xFF false) = .next ((at_ 0xFF false).respond (Config.memInit 0xFF)).advance :=
  ⟨by decide, rfl⟩
/-- A step with each event at the head, in both modes where they differ, and a step with none. Meets the hypotheses of the
statements about every step: CursorIsWrittenOnlyByReceiveAndRequest, FlagIsSetByAddressByteAndClearedByFinished,
OnlyTheEventRulesChangeTheBlock, ResponseExactlyOnRequest, StepTakesOneEventAndKeepsTheBinding. -/
theorem witness_every_kind_of_step :
    ((due 0xFF false 0x0FF).pending = encodeEvent (.byteReceived 0xFF) :: [] ∧
      step (due 0xFF false 0x0FF) = .next (at_ 0xFF true)) ∧
    ((due 0xFF true 0x000).pending = encodeEvent (.byteReceived 0x00) :: [] ∧
      step (due 0xFF true 0x000) = .next (storeData 0x00 (at_ 0xFF true))) ∧
    ((due 0xFF true 0x100).pending = encodeEvent .byteRequested :: [] ∧
      step (due 0xFF true 0x100) = .next ((at_ 0xFF true).respond (Config.memInit 0xFF)).advance ∧
      ((at_ 0xFF true).respond (Config.memInit 0xFF)).advance.rspValid = true) ∧
    ((due 0xFF true 0x200).pending = encodeEvent .finished :: [] ∧ step (due 0xFF true 0x200) = .next (at_ 0xFF false)) ∧
    ((at_ 0xFF true).pending = [] ∧ step (at_ 0xFF true) = .next (at_ 0xFF true)) :=
  ⟨⟨by decide, rfl⟩, ⟨by decide, rfl⟩, ⟨by decide, rfl, rfl⟩, ⟨by decide, rfl⟩, ⟨rfl, rfl⟩⟩
theorem witness_EqualMemoriesAreEqualData :
    (Memory.write [] 0xFF 0x5A).wf ∧ (Memory.write (Memory.write [] 0xFF 0x00) 0xFF 0x5A).wf ∧
    ∀ a, Memory.read (Memory.write [] 0xFF 0x5A) a = Memory.read (Memory.write (Memory.write [] 0xFF 0x00) 0xFF 0x5A) a := by
  refine ⟨Memory.write_wf _ _ Memory.wf_nil, Memory.write_wf _ _ (Memory.write_wf _ _ Memory.wf_nil), fun a => ?_⟩
  rw [Memory.read_write, Memory.read_write, Memory.read_write]; split <;> rfl
theorem witness_StepKeepsInv :
    (due 0xFF true 0x05A).Inv ∧ step (due 0xFF true 0x05A) = .next (storeData 0x5A (at_ 0xFF true)) :=
  ⟨⟨Memory.wf_nil, fun _ h => nomatch h⟩, rfl⟩
/-- The same with a byte on the response port. -/
theorem witness_StepKeepsInv_after_a_response :
    ((at_ 0xFF true).respond 0x9C).Inv ∧ step ((at_ 0xFF true).respond 0x9C) = .next ((at_ 0xFF true).respond 0x9C).idle :=
  ⟨⟨Memory.wf_nil, fun _ h => h⟩, rfl⟩
/-- Two data bytes from slot 255: the second is the last to reach slot 0, and slot 1 is not reached. -/
theorem witness_WriteBurstFillsConsecutiveSlots :
    (at_ 0 false).latched = false ∧ ([1, 2] : List Byte).length ≤ 256 ∧ 1 < ([1, 2] : List Byte).length ∧
    (∀ k, 1 < k → k < ([1, 2] : List Byte).length → (0xFF : Byte) + BitVec.ofNat 8 k ≠ 0xFF + BitVec.ofNat 8 1) ∧
    (∀ j, j < ([1, 2] : List Byte).length → (0xFF : Byte) + BitVec.ofNat 8 j ≠ 0x01) := by
  refine ⟨rfl, by decide, by decide, fun k h1 h2 => ?_, fun j hj => ?_⟩
  · simp at h2; omega
  · simp at hj; interval_cases j <;> decide
theorem witness_CursorPersistsAcrossFinished : (at_ 0xC0 false).latched = false := rfl
theorem witness_MemoryNeverSteersTheBlock :
    (at_ 5 true).cursor = ({ at_ 5 true with mem := Memory.write [] 5 7 } : State).cursor ∧
    (at_ 5 true).latched = ({ at_ 5 true with mem := Memory.write [] 5 7 } : State).latched := ⟨rfl, rfl⟩
theorem witness_TransportDeliversEachByteOnce : ∀ op ∈ [opWrite 0x18 [1], opRead 0x00 2], op.target ≠ 0x17 := by decide
theorem witness_RestartFinishDecidesTheSecondAddress : (at_ 0 false).latched = false ∧ (0x20 : Byte) ≠ 0x30 := by decide
theorem witness_SeekSetsOnlyTheCursor : (at_ 0x33 false).latched = false := rfl
theorem witness_WriteThenReadBackReturnsTheData :
    (at_ 0 false).latched = false ∧ (List.replicate 256 (0xAA : Byte)).length ≤ 256 ∧
    256 ≤ (List.replicate 256 (0xAA : Byte)).length := by
  rw [List.length_replicate]; exact ⟨rfl, le_refl _, le_refl _⟩
theorem witness_DriverIterationSucceeds :
    (at_ 0 false).latched = false ∧ (Driver.start ⟨[0x11, 0x22], 0, 0xFF⟩).phase = .write ∧
    (Driver.start ⟨[0x11, 0x22], 0, 0xFF⟩).params.wellFormed = true ∧
    (Driver.start ⟨[0x11, 0x22], 0, 0xFF⟩).params.payload.length ≤ 256 := by decide
/-- Each clause of DriverStopsOnShortTransferOrMismatch, for the payload `[0x11, 0x22]` split at 1. -/
theorem witness_DriverStopsOnShortTransferOrMismatch :
    let d : DriverPhase → Driver := fun ph => ⟨⟨[0x11, 0x22], 1, 0⟩, 0, ph⟩
    ((d .write).phase = .write ∧ 2 < (d .write).params.payload.length + 1) ∧ (d .seek).phase = .seek ∧
    (∀ why, (d .readA).phase ≠ .halted why) ∧ (d .readA).params.wellFormed = true ∧
    ([] : List Byte).length < (d .readA).params.split ∧
    (([0x12] : List Byte).length = (d .readA).params.split ∧ ([0x12] : List Byte) ≠ (d .readA).params.payload.take 1) ∧
    ([] : List Byte).length < (d .readB).params.payload.length - (d .readB).params.split ∧
    (([0x12] : List Byte).length = (d .readB).params.payload.length - (d .readB).params.split ∧
      ([0x12] : List Byte) ≠ (d .readB).params.payload.drop 1) ∧
    (d (.halted .dataMismatch)).phase = .halted .dataMismatch := by
  refine ⟨by decide, rfl, ?_, by decide⟩
  intro why h
  cases h

end Sys2Proof.Tests
end

section
/-! PROOFS. Only an event's word decodes to that event, and a step said once in terms of the one event it handles. -/

namespace Sys2Proof

/-- A word is its `kind` field above its `data` field (spec/30_encoding.md R52). -/
theorem kindField_append_dataField (w : EventWord) : kindField w ++ dataField w = w := by
  unfold kindField dataField
  rw [BitVec.extractLsb'_append_extractLsb'_eq_extractLsb' (by rfl)]
  exact BitVec.extractLsb'_eq_self

/-- The encoder inverts the decoder on the words that are events (spec/30_encoding.md R53). -/
theorem encodeEvent_of_decodeEvent {w : EventWord} {e : Event} (h : decodeEvent w = .ok e) : encodeEvent e = w := by
  have hw := kindField_append_dataField w
  unfold decodeEvent at h
  split at h
  case isTrue hk =>
    cases h
    rw [hk] at hw
    exact (BitVec.setWidth_eq_append (by decide : 8 ≤ 10)).trans hw
  case isFalse =>
    split at h
    case isTrue hk =>
      split at h
      case isTrue hd => cases h; rw [← hw, hk, hd]; rfl
      case isFalse => cases h
    case isFalse =>
      split at h
      case isTrue hk =>
        split at h
        case isTrue hd => cases h; rw [← hw, hk, hd]; rfl
        case isFalse => cases h
      case isFalse => cases h

/-- Different events have different words: the decoder tells them apart. -/
@[simp] theorem encodeEvent_inj {e e' : Event} : encodeEvent e = encodeEvent e' ↔ e = e' := by
  refine ⟨fun h => ?_, congrArg encodeEvent⟩
  have hd := congrArg decodeEvent h
  simpa using hd

/-- A word that decodes in a mode is the word of the event whose operation it decodes to. -/
theorem decodeIn_eq_ok {latched : Bool} {w : EventWord} {i : Instr} (h : decodeIn latched w = .ok i) :
    ∃ e, encodeEvent e = w ∧ operationOf latched e = i := by
  unfold decodeIn at h
  split at h
  case h_1 e he => cases h; exact ⟨e, encodeEvent_of_decodeEvent he, rfl⟩
  case h_2 => cases h

end Sys2Proof

namespace Sys2Proof.Machine

@[simp] theorem latchAddress_cursor (v : Byte) (s : State) : (latchAddress v s).cursor = v := rfl
@[simp] theorem latchAddress_latched (v : Byte) (s : State) : (latchAddress v s).latched = true := rfl
@[simp] theorem latchAddress_memRead (v a : Byte) (s : State) : (latchAddress v s).memRead a = s.memRead a := rfl
@[simp] theorem storeData_cursor (v : Byte) (s : State) : (storeData v s).cursor = inc8 s.cursor := rfl
@[simp] theorem storeData_latched (v : Byte) (s : State) : (storeData v s).latched = s.latched := rfl

/-- What the rule of an event makes of the state (spec/40_receive.md R70, R71, spec/41_request.md R80,
spec/42_finish.md R85). Tied to the machine by `exec_operationOf`. -/
def State.handle (s : State) : Event → State
  | .byteReceived v => if s.latched then storeData v s else latchAddress v s
  | .byteRequested => (s.respond (s.memRead s.cursor)).advance
  | .finished => s.unlatch.noResponse

theorem handle_addressByte {s : State} (v : Byte) (h : s.latched = false) :
    s.handle (.byteReceived v) = latchAddress v s := by simp [State.handle, h]

theorem handle_dataByte {s : State} (v : Byte) (h : s.latched = true) :
    s.handle (.byteReceived v) = storeData v s := by simp [State.handle, h]

@[simp] theorem handle_byteRequested (s : State) :
    s.handle .byteRequested = (s.respond (s.memRead s.cursor)).advance := rfl

@[simp] theorem handle_finished (s : State) : s.handle .finished = s.unlatch.noResponse := rfl

/-- The operation that the mode selects for an event does what the event's rule says. -/
theorem exec_operationOf (s : State) (e : Event) : exec (operationOf s.latched e) s = .next (s.handle e) := by
  cases e with
  | byteReceived v =>
    cases h : s.latched
    · simp [operationOf, exec, execRecvAddr, handle_addressByte v h, h]
    · simp [operationOf, exec, execRecvData, handle_dataByte v h, h]
  | byteRequested => rfl
  | finished => rfl

/-- A step with an event due gives a next state, the one of the event's rule. -/
theorem step_event {s : State} {e : Event} {rest : List EventWord} (h : s.pending = encodeEvent e :: rest) :
    step s = .next ((s.consume rest).handle e) := by
  simp only [step, fetch_event h]
  exact exec_operationOf (s.consume rest) e

theorem step_idle {s : State} (h : s.pending = []) : step s = .next s.idle := by
  simp [step, fetch, h]

/-- A step that gives a next state had no event due, or handled the event whose word stood at the event port. -/
theorem step_cases_event {s t : State} (h : step s = .next t) :
    (s.pending = [] ∧ t = s.idle) ∨
    ∃ e rest, s.pending = encodeEvent e :: rest ∧ t = (s.consume rest).handle e := by
  obtain ⟨hp, ht⟩ | ⟨i, w, rest, hp, hd, hx⟩ := step_cases h
  · exact .inl ⟨hp, ht⟩
  · obtain ⟨e, rfl, rfl⟩ := decodeIn_eq_ok hd
    have hn := exec_operationOf (s.consume rest) e
    exact .inr ⟨e, rest, hp, Host.Outcome.next.inj (hx.symm.trans hn)⟩

/-- The next state of a step that has the event `e` due. -/
theorem eq_handle_of_step {s t : State} {e : Event} {rest : List EventWord} (h : step s = .next t)
    (hp : s.pending = encodeEvent e :: rest) : t = (s.consume rest).handle e :=
  Host.Outcome.next.inj (h.symm.trans (step_event hp))

end Sys2Proof.Machine
end

section
/-! PROOFS. The statements about the items of the state: the slots, the cursor, the flag and the block they make up
(spec/10_state.md R10 to R12, R23). -/

namespace Sys2Proof.Machine

/-- `inc8` is the increment modulo 256 (spec/00_scope.md R8). -/
theorem toNat_inc8 (c : Byte) : (inc8 c).toNat = (c.toNat + 1) % 256 := by simp [inc8]

/-- From false, a `ByteReceived` and no other event sets the flag (spec/10_state.md R12). -/
theorem handle_latched_of_false {s : State} (e : Event) (h : s.latched = false) :
    (s.handle e).latched = true ↔ ∃ v, e = .byteReceived v := by
  cases e with
  | byteReceived v => simp [handle_addressByte v h]
  | byteRequested => simp [h]
  | finished => simp

/-- From true, `Finished` and no other event clears the flag (spec/10_state.md R12). -/
theorem handle_latched_of_true {s : State} (e : Event) (h : s.latched = true) :
    (s.handle e).latched = false ↔ e = .finished := by
  cases e with
  | byteReceived v => simp [handle_dataByte v h, h]
  | byteRequested => simp [h]
  | finished => simp

/-- The rule of an event acts on the block as the transition table says (spec/42_finish.md R87). -/
theorem block_handle (s : State) (e : Event) : (s.handle e).block = s.block.step e := by
  cases e with
  | byteReceived v =>
    cases h : s.latched
    · simp [handle_addressByte v h, State.block, Block.step, h, funext_iff]
    · simp [handle_dataByte v h, State.block, Block.step, h, inc8, funext_iff]
  | byteRequested => rfl
  | finished => rfl

end Sys2Proof.Machine

namespace Sys2Proof.Proofs

open Sys2Proof Sys2Proof.Machine

/-- Settles O15: the next state of a step is the one its event's rule gives, and each rule's cursor is read off. -/
theorem cursorIsWrittenOnlyByReceiveAndRequest : Obligations.CursorIsWrittenOnlyByReceiveAndRequest := by
  refine ⟨toNat_inc8, rfl, fun s t h => ⟨fun hp => ?idle, fun v rest hp => ?received, fun rest hp => ?requested,
    fun rest hp => ?finished⟩⟩
  case idle =>
    cases h.symm.trans (step_idle hp)
    rfl
  case received =>
    have ht := eq_handle_of_step h hp
    refine ⟨fun hl => ?_, fun hl => ?_⟩
    · have hload := handle_addressByte (s := s.consume rest) v hl
      simp [ht, hload]
    · have hstore := handle_dataByte (s := s.consume rest) v hl
      simp [ht, hstore]
  case requested => simp [eq_handle_of_step h hp]
  case finished => simp [eq_handle_of_step h hp]

/-- Settles O16: a step without an event keeps the flag, and a step with one changes it as the event's rule does. -/
theorem flagIsSetByAddressByteAndClearedByFinished : Obligations.FlagIsSetByAddressByteAndClearedByFinished := by
  refine ⟨rfl, fun s t h => ?_⟩
  obtain ⟨hp, rfl⟩ | ⟨e, rest, hp, rfl⟩ := step_cases_event h
  · refine ⟨fun hl => ?_, fun hl => ?_⟩ <;> simp [hp, hl]
  · refine ⟨fun hl => ?_, fun hl => ?_⟩
    · have hset := handle_latched_of_false (s := s.consume rest) e hl
      simp [hset, hp]
    · have hclear := handle_latched_of_true (s := s.consume rest) e hl
      simp [hclear, hp]

/-- Settles O17: a step without an event keeps the block, and a step with one does what the transition table says. -/
theorem onlyTheEventRulesChangeTheBlock : Obligations.OnlyTheEventRulesChangeTheBlock := by
  intro s t h
  obtain ⟨hp, rfl⟩ | ⟨e, rest, hp, rfl⟩ := step_cases_event h
  · exact .inl ⟨hp, rfl⟩
  · exact .inr ⟨e, rest, hp, block_handle (s.consume rest) e⟩

/-- Settles O14: a slot read after a write is the written byte or what it was before, and `REQ` writes no slot. -/
theorem slotsAreIndependent : Obligations.SlotsAreIndependent := by
  refine fun s a v => ⟨by simp, fun b hb => by simp [hb], fun t h b => ?_⟩
  have ht : t = s.handle .byteRequested := Host.Outcome.next.inj (h.symm.trans (exec_operationOf s .byteRequested))
  simp [ht]

end Sys2Proof.Proofs
end

section
/-! PROOFS. The statements about the encoding: the mode bit and the operation it selects (spec/30_encoding.md R56), and that
every event is handled in every state (R58). -/

namespace Sys2Proof

/-- An operation that the mode selects is the one the mode selects for the operation's own event
(spec/30_encoding.md R56). -/
theorem operationOf_event {latched : Bool} {i : Instr} (h : i.wellFormedIn latched = true) :
    operationOf latched i.event = i := by
  cases i with
  | recvAddr v =>
    have hl : latched = false := by simpa [Instr.wellFormedIn] using h
    simp [operationOf, Instr.event, hl]
  | recvData v =>
    have hl : latched = true := h
    simp [operationOf, Instr.event, hl]
  | req => rfl
  | fin => rfl

/-- The word of an operation decodes to it in a mode that selects it (spec/30_encoding.md R53). -/
theorem decodeIn_encode {latched : Bool} {i : Instr} (h : i.wellFormedIn latched = true) :
    decodeIn latched (encode i) = .ok i := by
  rw [encode, decodeIn_encodeEvent, operationOf_event h]

/-- The two `RECV` operations "encode identically" (spec/30_encoding.md R63). -/
theorem encode_recvData (v : Byte) : encode (.recvData v) = encode (.recvAddr v) := rfl

end Sys2Proof

namespace Sys2Proof.Machine

/-- An operation that the mode selects does what the rule of its event says. -/
theorem exec_of_wellFormedIn {i : Instr} {s : State} (h : i.wellFormedIn s.latched = true) :
    exec i s = .next (s.handle i.event) := by
  have hx := exec_operationOf s i.event
  rwa [operationOf_event h] at hx

/-- A step from a state at whose event port the word of the event `e` has been placed. -/
theorem step_withPending (s : State) (e : Event) (rest : List EventWord) :
    step { s with pending := encodeEvent e :: rest } = .next ((s.consume rest).handle e) :=
  step_event (s := { s with pending := encodeEvent e :: rest }) rfl

/-- A `ByteReceived` leaves the flag true in either mode (spec/10_state.md R12). -/
theorem handle_byteReceived_latched (s : State) (v : Byte) : (s.handle (.byteReceived v)).latched = true := by
  cases h : s.latched
  case false => rw [handle_addressByte v h, latchAddress_latched]
  case true => rw [handle_dataByte v h, storeData_latched, h]

end Sys2Proof.Machine

namespace Sys2Proof.Proofs

open Sys2Proof.Machine

/-- Settles O12: what a word decodes to is what the mode selects for its event, and the flag is read off the rule of that
event. -/
theorem modeBitSelectsTheReceiveOperation : Obligations.ModeBitSelectsTheReceiveOperation := by
  refine ⟨fun v => ⟨decodeIn_encode rfl, ?_, encode_recvData v⟩,
    fun latched => ⟨decodeIn_encode rfl, decodeIn_encode rfl⟩, fun i s t hwf hx => ?_⟩
  · rw [← encode_recvData]
    exact decodeIn_encode rfl
  · obtain rfl : s.handle i.event = t := Host.Outcome.next.inj ((exec_of_wellFormedIn hwf).symm.trans hx)
    cases i with
    | recvAddr v => exact handle_byteReceived_latched s v
    | recvData v =>
      have hl : s.latched = true := hwf
      exact (handle_byteReceived_latched s v).trans hl.symm
    | req => simp [Instr.event]
    | fin => simp [Instr.event]

/-- Settles O13: a step with an event due always gives the next state of the event's rule, and each rule has its effect;
the rule of `ByteReceived` is the address byte's or the data byte's, by the flag. -/
theorem everyEventIsHandledInEveryState : Obligations.EveryEventIsHandledInEveryState := by
  intro s rest
  refine ⟨fun v => ⟨_, step_withPending s _ rest, handle_byteReceived_latched _ v, fun hl => ?addressByte, fun hl => ?dataByte⟩,
    ⟨_, step_withPending s _ rest, ?request⟩, ⟨_, step_withPending s _ rest, ?finish⟩⟩
  case addressByte =>
    rw [handle_addressByte v (s := s.consume rest) hl]
    exact ⟨latchAddress_cursor v _, fun a => by simp⟩
  case dataByte =>
    rw [handle_dataByte v (s := s.consume rest) hl]
    exact ⟨storeData_cursor v _, by simp⟩
  case request => simp
  case finish => simp

end Sys2Proof.Proofs
end

section
/-! PROOFS. The statements about `RECV` in the mode of each of its two operations (spec/40_receive.md R70, R71). -/

namespace Sys2Proof

/-- The word `0x000 + v` is the word of the `RECV` operations (spec/30_encoding.md R53). -/
theorem ofNat_toNat_eq_encode (v : Byte) : BitVec.ofNat 10 (0x000 + v.toNat) = encode (.recvAddr v) := by
  rw [Nat.zero_add, BitVec.ofNat_toNat]
  rfl

end Sys2Proof

namespace Sys2Proof.Machine

/-- In its own mode `RECV.ADDR` is the address byte (spec/40_receive.md R70). -/
theorem exec_recvAddr_eq {s : State} (v : Byte) (h : s.latched = false) :
    exec (.recvAddr v) s = .next (latchAddress v s) := by
  have hwf : (Instr.recvAddr v).wellFormedIn s.latched = true := by simp [Instr.wellFormedIn, h]
  rw [exec_of_wellFormedIn hwf]
  exact congrArg Host.Outcome.next (handle_addressByte v h)

/-- In its own mode `RECV.DATA` is the data byte (spec/40_receive.md R71). -/
theorem exec_recvData_eq {s : State} (v : Byte) (h : s.latched = true) :
    exec (.recvData v) s = .next (storeData v s) := by
  rw [exec_of_wellFormedIn (i := .recvData v) h]
  exact congrArg Host.Outcome.next (handle_dataByte v h)

end Sys2Proof.Machine

namespace Sys2Proof.Proofs

open Sys2Proof.Machine

/-- Settles O2: the word is the operation's own, the operation is the data byte, and what the store and the advance leave
is read off. -/
theorem recvDataStoresAtCursorAndAdvances : Obligations.RecvDataStoresAtCursorAndAdvances := by
  intro s v hl
  refine ⟨?decodes, rfl, storeData v s, exec_recvData_eq v hl, ?stored, fun a ha => ?otherSlots, toNat_inc8 s.cursor,
    hl, rfl, rfl, rfl, rfl⟩
  case decodes =>
    rw [ofNat_toNat_eq_encode, ← encode_recvData]
    exact decodeIn_encode rfl
  case stored => exact (storeData_memRead v s.cursor s).trans (if_pos rfl)
  case otherSlots => exact (storeData_memRead v a s).trans (if_neg ha)

/-- Settles O1: the word is the operation's own, the operation is the address byte, and `FIN` after it clears only the
flag. -/
theorem recvAddrLoadsCursorAndLatches : Obligations.RecvAddrLoadsCursorAndLatches := by
  intro s v hl
  refine ⟨?decodes, ?latches, ?seekEnds⟩
  case decodes =>
    rw [ofNat_toNat_eq_encode]
    exact decodeIn_encode rfl
  case latches => rw [exec_recvAddr_eq v hl, latchAddress_eq]
  case seekEnds => exact exec_operationOf _ .finished

end Sys2Proof.Proofs
end

section
/-! PROOFS. The statement about `REQ` in either mode (spec/41_request.md R80, R83). -/

namespace Sys2Proof.Machine

/-- The advanced cursor as the byte of the increment modulo 256 (spec/00_scope.md R8). -/
theorem inc8_eq_ofNat (c : Byte) : inc8 c = BitVec.ofNat 8 ((c.toNat + 1) % 256) := by
  rw [← toNat_inc8, BitVec.ofNat_toNat, BitVec.setWidth_eq]

/-- All that the rule of `ByteRequested` does: the flag is neither read nor written (spec/41_request.md R80, R83). -/
theorem handle_byteRequested_eq (s : State) :
    s.handle .byteRequested =
      { s with
        cursor := inc8 s.cursor
        rsp := some (s.memRead s.cursor)
        responses := s.responses ++ [s.memRead s.cursor] } := rfl

end Sys2Proof.Machine

namespace Sys2Proof.Proofs

open Sys2Proof.Machine

/-- Settles O3: the word is the operation's own in both modes, both modes select the operation, and its event's rule with
the advance written modulo 256 is the next state stated. -/
theorem reqServesCursorAndAdvances : Obligations.ReqServesCursorAndAdvances := by
  refine ⟨fun latched => ?decodes, fun s => ?serves⟩
  case decodes => exact decodeIn_encode (i := .req) rfl
  case serves =>
    have hx : exec .req s = .next (s.handle .byteRequested) := exec_of_wellFormedIn rfl
    rw [hx, handle_byteRequested_eq, inc8_eq_ofNat]

end Sys2Proof.Proofs
end

section
/-! PROOFS. The statement about `FIN` in either mode (spec/42_finish.md R85). -/

namespace Sys2Proof.Machine

/-- All that the rule of `Finished` does: the cursor and the slots are not written (spec/42_finish.md R85). -/
theorem handle_finished_eq (s : State) : s.handle .finished = { s with latched := false, rsp := none } := rfl

/-- A second `Finished` changes nothing (spec/42_finish.md R85, corner case (c)). -/
theorem handle_finished_idem (s : State) : (s.handle .finished).handle .finished = s.handle .finished := rfl

end Sys2Proof.Machine

namespace Sys2Proof.Proofs

open Sys2Proof.Machine

/-- Settles O4: the word is the operation's own in both modes, both modes select the operation, and its event's rule, which
is idempotent, is the next state stated. -/
theorem finClearsOnlyTheFlag : Obligations.FinClearsOnlyTheFlag := by
  have hx (s : State) : exec .fin s = .next (s.handle .finished) := exec_of_wellFormedIn rfl
  refine ⟨fun latched => ?decodes, fun s => ⟨?clears, ?again⟩⟩
  case decodes => exact decodeIn_encode (i := .fin) rfl
  case clears => rw [hx, handle_finished_eq]
  case again => rw [← handle_finished_eq, hx, handle_finished_idem]

end Sys2Proof.Proofs
end

section
/-! PROOFS. The statements about the decoder: it inverts the encoder, accepts exactly the words with one of the three formats,
and a step runs what it gives or refuses the word (spec/30_encoding.md R53, R57, R61). -/

namespace Sys2Proof

@[simp] theorem event_operationOf (latched : Bool) (e : Event) : (operationOf latched e).event = e := by
  cases e with
  | byteReceived v => cases latched <;> rfl
  | byteRequested => rfl
  | finished => rfl

/-- The mode selects the operation that it reads an event as (spec/30_encoding.md R56). -/
theorem wellFormedIn_operationOf (latched : Bool) (e : Event) :
    (operationOf latched e).wellFormedIn latched = true := by
  cases e with
  | byteReceived v => cases latched <;> rfl
  | byteRequested => rfl
  | finished => rfl

/-- A word that decodes in a mode is the word of its operation, which the mode selects. -/
theorem encode_of_decodeIn {latched : Bool} {w : EventWord} {i : Instr} (h : decodeIn latched w = .ok i) :
    encode i = w ∧ i.wellFormedIn latched = true := by
  obtain ⟨e, rfl, rfl⟩ := decodeIn_eq_ok h
  exact ⟨congrArg encodeEvent (event_operationOf latched e), wellFormedIn_operationOf latched e⟩

/-- An event's word has one of the three formats (spec/30_encoding.md R53). -/
theorem isEvent_encodeEvent (e : Event) : (encodeEvent e).isEvent = true := by
  cases e with
  | byteReceived v => exact Laws.EncodesToEventWord.recvAddr v
  | byteRequested => exact Laws.EncodesToEventWord.req
  | finished => exact Laws.EncodesToEventWord.fin

/-- The match and mask pair of `RECV` tests the `kind` field alone (spec/30_encoding.md R53). -/
theorem kindField_of_format_recv {w : EventWord} (h : Format.recv.has w = true) : kindField w = 0 := by
  have hmask : w &&& 0x300 = 0 := by simpa [Format.has, Format.recv] using h
  have hkind : kindField w &&& kindField 0x300 = kindField 0 := by
    simpa only [kindField, BitVec.extractLsb'_and] using congrArg kindField hmask
  have hones : kindField 0x300 = BitVec.allOnes 2 := rfl
  rwa [hones, BitVec.and_allOnes] at hkind

/-- A word whose `kind` field is 0 is the word of the `ByteReceived` of its `data` field. -/
theorem encodeEvent_dataField {w : EventWord} (h : kindField w = 0) : encodeEvent (.byteReceived (dataField w)) = w :=
  encodeEvent_of_decodeEvent (if_pos h)

/-- The words with one of the three formats are the words of the events (spec/30_encoding.md R53, R57). -/
theorem isEvent_iff_exists_event {w : EventWord} : w.isEvent = true ↔ ∃ e, encodeEvent e = w := by
  refine ⟨fun h => ?_, fun ⟨e, he⟩ => he ▸ isEvent_encodeEvent e⟩
  have hformat : Format.recv.has w = true ∨ Format.req.has w = true ∨ Format.fin.has w = true := by
    simpa [EventWord.isEvent, formats] using h
  have hones : w &&& 0x3FF = w := BitVec.and_allOnes
  obtain hrecv | hreq | hfin := hformat
  · exact ⟨_, encodeEvent_dataField (kindField_of_format_recv hrecv)⟩
  · have hw : w = 0x100 := hones.symm.trans (eq_of_beq hreq)
    exact ⟨.byteRequested, hw.symm⟩
  · have hw : w = 0x200 := hones.symm.trans (eq_of_beq hfin)
    exact ⟨.finished, hw.symm⟩

/-- The decoder gives an event on exactly the words of the events (spec/30_encoding.md R61). -/
theorem isOk_decodeEvent_iff {w : EventWord} : (decodeEvent w).isOk = true ↔ ∃ e, encodeEvent e = w := by
  refine ⟨fun h => ?_, fun ⟨e, he⟩ => ?_⟩
  · cases hd : decodeEvent w with
    | ok e => exact ⟨e, encodeEvent_of_decodeEvent hd⟩
    | error why => rw [hd] at h; cases h
  · rw [← he, decodeEvent_encodeEvent]
    rfl

/-- The words of the events as numbers (spec/30_encoding.md R53, R57). -/
theorem exists_event_iff_toNat {w : EventWord} :
    (∃ e, encodeEvent e = w) ↔ w.toNat ≤ 0x0FF ∨ w.toNat = 0x100 ∨ w.toNat = 0x200 := by
  constructor
  · rintro ⟨e, rfl⟩
    cases e with
    | byteReceived v =>
      left
      have hv : (encodeEvent (.byteReceived v)).toNat = v.toNat := by
        rw [encodeEvent, BitVec.toNat_setWidth]
        omega
      omega
    | byteRequested => exact .inr (.inl rfl)
    | finished => exact .inr (.inr rfl)
  · rintro (hrecv | hreq | hfin)
    · refine ⟨.byteReceived (w.setWidth 8), BitVec.eq_of_toNat_eq ?_⟩
      rw [encodeEvent, BitVec.toNat_setWidth, BitVec.toNat_setWidth]
      omega
    · exact ⟨.byteRequested, BitVec.eq_of_toNat_eq hreq.symm⟩
    · exact ⟨.finished, BitVec.eq_of_toNat_eq hfin.symm⟩

/-- A word with none of the three formats decodes in no mode. -/
theorem decodeIn_of_not_isEvent {w : EventWord} (latched : Bool) (h : w.isEvent = false) :
    ∃ why, decodeIn latched w = .error why := by
  cases hd : decodeIn latched w with
  | error why => exact ⟨why, rfl⟩
  | ok i =>
    obtain ⟨e, rfl, -⟩ := decodeIn_eq_ok hd
    rw [isEvent_encodeEvent] at h
    cases h

end Sys2Proof

namespace Sys2Proof.Machine

/-- A step with a word due that decodes in the block's mode. -/
theorem step_of_decodeIn_ok {s : State} {w : EventWord} {rest : List EventWord} {i : Instr}
    (hp : s.pending = w :: rest) (hd : decodeIn s.latched w = .ok i) : step s = exec i (s.consume rest) := by
  simp [step, fetch, hp, hd]

/-- A step with a reserved word due (spec/30_encoding.md R57). -/
theorem step_of_decodeIn_error {s : State} {w : EventWord} {rest : List EventWord} {why : ReservedWord}
    (hp : s.pending = w :: rest) (hd : decodeIn s.latched w = .error why) :
    step s = .refused (.reservedEventWord w why) := by
  simp [step, fetch, hp, hd]

end Sys2Proof.Machine

namespace Sys2Proof.Proofs

open Sys2Proof.Machine

/-- Settles O10: an operation is the one its mode selects for its event, and a word that decodes is the word of an event. -/
theorem decodeAndEncodeAgree : Obligations.DecodeAndEncodeAgree :=
  ⟨fun _ _ hwf => decodeIn_encode hwf, fun _ _ _ hd => encode_of_decodeIn hd⟩

/-- Settles O6: the fetch hands `exec` what the decoder gives, which the mode selects. -/
theorem stepRunsTheDecodedEvent : Obligations.StepRunsTheDecodedEvent := by
  intro s w rest i hd
  have hwf := (encode_of_decodeIn hd).2
  exact ⟨step_of_decodeIn_ok (s := { s with pending := w :: rest }) rfl hd, hwf⟩

/-- Settles O8: a word with none of the formats is no event's word, so it decodes in no mode. -/
theorem reservedWordIsRefused : Obligations.ReservedWordIsRefused := by
  intro s w rest hw
  obtain ⟨why, hd⟩ := decodeIn_of_not_isEvent s.latched hw
  exact ⟨why, step_of_decodeIn_error (s := { s with pending := w :: rest }) rfl hd⟩

/-- Settles O9: the decoder, the formats and the ranges each pick out the words of the events. -/
theorem decoderAcceptsExactlyTheFormats : Obligations.DecoderAcceptsExactlyTheFormats := fun _ =>
  ⟨Bool.eq_iff_iff.2 (isOk_decodeEvent_iff.trans isEvent_iff_exists_event.symm),
    isEvent_iff_exists_event.trans exists_event_iff_toNat⟩

/-- Settles O11: the words are evaluated. -/
theorem wordsDecodeAsTheSpecLists : Obligations.WordsDecodeAsTheSpecLists := by
  refine ⟨rfl, rfl, rfl, rfl, rfl, rfl, rfl, rfl, rfl, rfl⟩

end Sys2Proof.Proofs
end

section
/-! PROOFS. The statements about one step: what its event's rule leaves on the two ports and in the record, that it keeps the
invariant, and the step without an event (spec/30_encoding.md R50, spec/42_finish.md R87). -/

namespace Sys2Proof.Machine

/-! ### The rule of an event on each field that is no part of the block -/

@[simp] theorem handle_pending (s : State) (e : Event) : (s.handle e).pending = s.pending := by
  cases e with
  | byteReceived v => simp only [State.handle]; split <;> rfl
  | byteRequested => rfl
  | finished => rfl

@[simp] theorem handle_slaveAddr (s : State) (e : Event) : (s.handle e).slaveAddr = s.slaveAddr := by
  cases e with
  | byteReceived v => simp only [State.handle]; split <;> rfl
  | byteRequested => rfl
  | finished => rfl

/-- The response port afterwards is the transition table's output (spec/42_finish.md R87). -/
theorem handle_rsp (s : State) (e : Event) : (s.handle e).rsp = s.block.out e := by
  cases e with
  | byteReceived v => simp only [State.handle]; split <;> rfl
  | byteRequested => rfl
  | finished => rfl

/-- The record grows by the transition table's output (spec/70_reset_and_hazards.md R144). -/
theorem handle_responses (s : State) (e : Event) :
    (s.handle e).responses = s.responses ++ (s.block.out e).toList := by
  cases e with
  | byteReceived v => simp only [State.handle]; split <;> exact (List.append_nil _).symm
  | byteRequested => rfl
  | finished => exact (List.append_nil _).symm

/-- The rule of an event does not read the event port. -/
theorem handle_consume (s : State) (e : Event) (rest : List EventWord) :
    (s.consume rest).handle e = (s.handle e).consume rest := by
  cases e with
  | byteReceived v =>
    cases hl : s.latched
    case false => rw [handle_addressByte v hl]; exact handle_addressByte v hl
    case true => rw [handle_dataByte v hl]; exact handle_dataByte v hl
  | byteRequested => rfl
  | finished => rfl

@[simp] theorem block_consume (s : State) (rest : List EventWord) : (s.consume rest).block = s.block := rfl

/-- Of the events only `ByteRequested` is answered (spec/30_encoding.md R55). -/
theorem out_isSome_iff (b : Block) (e : Event) : (b.out e).isSome = true ↔ e = .byteRequested := by
  cases e <;> simp [Block.out]

/-! ### The invariant -/

/-- The rule of an event writes the memory by `Memory.write` or not at all. -/
theorem handle_mem_wf {s : State} (e : Event) (h : s.mem.wf) : (s.handle e).mem.wf := by
  cases e with
  | byteReceived v =>
    cases hl : s.latched
    case false => rwa [handle_addressByte v hl]
    case true =>
      rw [handle_dataByte v hl]
      exact Memory.write_wf s.cursor v h
  | byteRequested => exact h
  | finished => exact h

/-- The response of an event's rule is the last byte of the record. -/
theorem handle_getLast?_responses {s : State} {e : Event} {b : Byte} (h : (s.handle e).rsp = some b) :
    (s.handle e).responses.getLast? = some b := by
  rw [handle_rsp] at h
  simp [handle_responses, h]

theorem inv_handle {s : State} (e : Event) (h : s.mem.wf) : (s.handle e).Inv :=
  ⟨handle_mem_wf e h, fun _ hb => handle_getLast?_responses hb⟩

theorem inv_idle {s : State} (h : s.mem.wf) : s.idle.Inv := ⟨h, fun _ hb => nomatch hb⟩

/-! ### Steps without an event -/

/-- Any number of steps with no event due keeps everything but the response port (spec/43_bus_operations.md R107). -/
theorem runSteps_idle (k : Nat) {s : State} (h : s.pending = []) : runSteps (k + 1) s = .next s.idle := by
  induction k generalizing s with
  | zero => rw [runSteps_succ 0 (step_idle h), runSteps_zero]
  | succ k ih =>
    rw [runSteps_succ (k + 1) (step_idle h)]
    exact ih h

end Sys2Proof.Machine

namespace Sys2Proof.Proofs

open Sys2Proof.Machine

/-- Settles O23: an event's rule stores canonically and records what it answers, and a step without an event answers
nothing. -/
theorem stepKeepsInv : Obligations.StepKeepsInv := by
  rintro s t ⟨hwf, -⟩ h
  obtain ⟨-, rfl⟩ | ⟨e, rest, -, rfl⟩ := step_cases_event h
  · exact inv_idle hwf
  · exact inv_handle e hwf

/-- Settles O22: nothing is listed and nothing is on the response port. -/
theorem resetMeetsInv : Obligations.ResetMeetsInv := ⟨Memory.wf_nil, fun _ h => nomatch h⟩

/-- Settles O20: an unlisted slot reads as `MEM_INIT` says, and each field has its reset value. -/
theorem resetLeavesInitialContents : Obligations.ResetLeavesInitialContents :=
  ⟨Memory.read_nil, rfl, rfl, rfl, rfl, rfl, rfl⟩

/-- Settles O7: after the first of the `k` steps the response port is empty, and nothing else ever changes. -/
theorem idleStepsKeepTheBlock : Obligations.IdleStepsKeepTheBlock := by
  refine fun k s hp => ⟨step_idle hp, ?_⟩
  cases k with
  | zero => exact ⟨s, rfl, rfl, rfl, hp⟩
  | succ k => exact ⟨s.idle, runSteps_idle k hp, rfl, rfl, hp⟩

/-- Settles O18: the response port and the record are the table's output for the event handled, if there was one. -/
theorem responseExactlyOnRequest : Obligations.ResponseExactlyOnRequest := by
  intro s t h
  obtain ⟨hp, rfl⟩ | ⟨e, rest, hp, rfl⟩ := step_cases_event h
  case inl => simp [hp, State.rspValid]
  case inr =>
    have hvalid : ((s.consume rest).handle e).rspValid = true ↔ e = .byteRequested := by
      rw [State.rspValid, handle_rsp, out_isSome_iff]
    refine ⟨?port, fun hv => ?byte, ?record⟩
    case port => simp [hvalid, hp]
    case byte =>
      obtain rfl := hvalid.1 hv
      rfl
    case record => rw [handle_responses, handle_rsp, State.consume_responses]

/-- Settles O19: taking the next event leaves the tail of the event port, which no event's rule writes. -/
theorem stepTakesOneEventAndKeepsTheBinding : Obligations.StepTakesOneEventAndKeepsTheBinding := by
  refine ⟨fun s t h => ?_, fun s a => rfl⟩
  obtain ⟨hp, rfl⟩ | ⟨e, rest, hp, rfl⟩ := step_cases_event h
  · simp [hp]
  · simp [hp]

/-- Settles O24: the step is the event's rule, and each of its effects is the table's. -/
theorem stepRefinesTheTransitionTable : Obligations.StepRefinesTheTransitionTable := fun s e rest =>
  ⟨_, step_withPending s e rest, block_handle _ e, handle_rsp _ e, handle_responses _ e, handle_pending _ e,
    handle_slaveAddr _ e⟩

/-- Settles O5: in the mode that does not select it, each `RECV` operation does what the other does there. -/
theorem recvInTheOtherModeIsTheOtherRecv : Obligations.RecvInTheOtherModeIsTheOtherRecv := by
  refine fun s v => ⟨fun hl => ?loads, fun hl => ⟨storeData v s, ?stores, exec_recvData_eq v hl⟩⟩
  case loads => simp [exec, execRecvData, hl, latchAddress_eq]
  case stores => simp [exec, execRecvAddr, hl]

end Sys2Proof.Proofs
end

section
/-! PROOFS. The statement about the memory's canonical form [log 3]. -/

namespace Sys2Proof.Machine

/-- Where the addresses rise strictly, what is found is what is listed. -/
theorem Memory.find_eq_some_iff {m : Memory} (h : m.Pairwise fun c d => c.1 < d.1) {k : Nat} {v : Byte} :
    Memory.find m k = some v ↔ (k, v) ∈ m := by
  induction m with
  | nil => simp [Memory.find]
  | cons c m ih =>
    obtain ⟨hlt, hm⟩ := List.pairwise_cons.1 h
    by_cases hk : c.1 = k
    · have hnot : (k, v) ∉ m := fun hmem => absurd (hlt _ hmem) (by simp [hk])
      subst hk
      simp [Memory.find, hnot, Prod.ext_iff, eq_comm]
    · simp [Memory.find, hk, ih hm, Prod.ext_iff, Ne.symm hk]

/-- In canonical form what is listed is what a slot reads as, where that is not what an unlisted slot reads as. -/
theorem Memory.mem_iff_read {m : Memory} (h : m.wf) (c : Host.Cell) :
    c ∈ m ↔ c.1 < Config.memSize ∧ Memory.read m (BitVec.ofNat 8 c.1) = c.2 ∧ c.2 ≠ Memory.unlisted c.1 := by
  obtain ⟨hsorted, hcells⟩ := h
  have hfind := Memory.find_eq_some_iff hsorted (k := c.1) (v := c.2)
  by_cases hk : c.1 < Config.memSize
  · have haddr : (BitVec.ofNat 8 c.1).toNat = c.1 := Nat.mod_eq_of_lt hk
    have hread : Memory.read m (BitVec.ofNat 8 c.1) = (Memory.find m c.1).getD (Memory.unlisted c.1) := by
      rw [Memory.read, haddr]
    refine ⟨fun hc => ⟨hk, by rw [hread, hfind.2 hc]; rfl, (hcells c hc).2⟩, fun ⟨_, hv, hne⟩ => hfind.1 ?_⟩
    cases hf : Memory.find m c.1 with
    | some v => rw [← hv, hread, hf]; rfl
    | none => exact absurd (by rw [← hv, hread, hf]; rfl) hne
  · exact iff_of_false (fun hc => hk (hcells c hc).1) (fun hc => hk hc.1)

end Sys2Proof.Machine

namespace Sys2Proof.Proofs

open Sys2Proof.Machine

/-- Settles O21: the reads of a memory in canonical form say which pairs it lists, and a strictly rising list is determined
by them. -/
theorem equalMemoriesAreEqualData : Obligations.EqualMemoriesAreEqualData := by
  intro m m' hwf hwf' hread
  have hanti : Std.Antisymm fun c d : Host.Cell => c.1 < d.1 := ⟨fun _ _ h h' => absurd h (lt_asymm h')⟩
  have hirrefl : Std.Irrefl fun c d : Host.Cell => c.1 < d.1 := ⟨fun _ => lt_irrefl _⟩
  refine hwf.1.eq_of_mem_iff hwf'.1 fun c => ?_
  rw [Memory.mem_iff_read hwf, Memory.mem_iff_read hwf', hread]

end Sys2Proof.Proofs
end

section
/-! PROOFS. The statements about runs on a finite trace: a run is the events' rules one after the other, and it refines the
transition table's run (spec/70_reset_and_hazards.md R144, spec/42_finish.md R87). -/

namespace Sys2Proof.Machine

/-! ### The transition table, row by row -/

theorem step_addressByte {b : Block} (v : Byte) (h : b.latched = false) :
    b.step (.byteReceived v) = { b with cursor := v, latched := true } := by simp [Block.step, h]

theorem step_dataByte {b : Block} (v : Byte) (h : b.latched = true) :
    b.step (.byteReceived v) =
      { slots := fun a => if a = b.cursor then v else b.slots a, cursor := b.cursor + 1, latched := true } := by
  simp [Block.step, h]

@[simp] theorem run_nil (b : Block) : b.run [] = b := rfl
@[simp] theorem run_cons (b : Block) (e : Event) (es : List Event) : b.run (e :: es) = (b.step e).run es := rfl
@[simp] theorem step_finished (b : Block) : b.step .finished = { b with latched := false } := rfl
@[simp] theorem step_byteRequested (b : Block) : b.step .byteRequested = { b with cursor := b.cursor + 1 } := rfl

theorem outs_cons (b : Block) (e : Event) (es : List Event) :
    b.outs (e :: es) = (b.out e).toList ++ (b.step e).outs es := rfl

@[simp] theorem outs_nil (b : Block) : b.outs [] = [] := rfl
@[simp] theorem outs_received (b : Block) (v : Byte) (es : List Event) :
    b.outs (.byteReceived v :: es) = (b.step (.byteReceived v)).outs es := rfl
@[simp] theorem outs_requested (b : Block) (es : List Event) :
    b.outs (.byteRequested :: es) = b.slots b.cursor :: (b.step .byteRequested).outs es := rfl
@[simp] theorem outs_finished (b : Block) (es : List Event) :
    b.outs (.finished :: es) = (b.step .finished).outs es := rfl

@[simp] theorem block_slots (s : State) : s.block.slots = s.memRead := rfl
@[simp] theorem block_cursor (s : State) : s.block.cursor = s.cursor := rfl
@[simp] theorem block_latched (s : State) : s.block.latched = s.latched := rfl

/-! ### A run as the events' rules in turn -/

/-- The state after a trace: the rule of each event in turn, nothing due before or after. Tied to the machine by
`runTrace_eq`. -/
def State.afterTrace (s : State) : List Event → State
  | [] => s.withEvents []
  | e :: es => (s.handle e).afterTrace es

/-- A step with a trace at the event port handles its first event. -/
theorem step_withEvents (s : State) (e : Event) (es : List Event) :
    step (s.withEvents (e :: es)) = .next ((s.handle e).withEvents es) := by
  have hstep := step_withPending s e (es.map encodeEvent)
  rwa [handle_consume] at hstep

/-- A run on a finite trace always gives a next state. -/
theorem runTrace_eq (es : List Event) (s : State) : runTrace es s = .next (s.afterTrace es) := by
  induction es generalizing s with
  | nil => rfl
  | cons e es ih => exact (runSteps_succ es.length (step_withEvents s e es)).trans (ih (s.handle e))

/-! ### A run on the parts of the block -/

@[simp] theorem afterTrace_block (s : State) (es : List Event) : (s.afterTrace es).block = s.block.run es := by
  induction es generalizing s with
  | nil => rfl
  | cons e es ih => rw [State.afterTrace, ih, block_handle, run_cons]

theorem afterTrace_cursor (s : State) (es : List Event) : (s.afterTrace es).cursor = (s.block.run es).cursor :=
  congrArg Block.cursor (afterTrace_block s es)

theorem afterTrace_latched (s : State) (es : List Event) : (s.afterTrace es).latched = (s.block.run es).latched :=
  congrArg Block.latched (afterTrace_block s es)

theorem afterTrace_memRead (s : State) (es : List Event) (a : Byte) :
    (s.afterTrace es).memRead a = (s.block.run es).slots a :=
  congrFun (congrArg Block.slots (afterTrace_block s es)) a

/-! ### A run on the model's own fields and the memory's data -/

theorem afterTrace_responses (s : State) (es : List Event) :
    (s.afterTrace es).responses = s.responses ++ s.block.outs es := by
  induction es generalizing s with
  | nil => exact (List.append_nil _).symm
  | cons e es ih => rw [State.afterTrace, ih, block_handle, handle_responses, outs_cons, List.append_assoc]

@[simp] theorem afterTrace_pending (s : State) (es : List Event) : (s.afterTrace es).pending = [] := by
  induction es generalizing s with
  | nil => rfl
  | cons e es ih => exact ih (s.handle e)

@[simp] theorem afterTrace_slaveAddr (s : State) (es : List Event) : (s.afterTrace es).slaveAddr = s.slaveAddr := by
  induction es generalizing s with
  | nil => rfl
  | cons e es ih => rw [State.afterTrace, ih, handle_slaveAddr]

/-- The response port after a trace is the output for its last event. -/
theorem afterTrace_concat_rsp (s : State) (es : List Event) (e : Event) :
    (s.afterTrace (es ++ [e])).rsp = (s.block.run es).out e := by
  induction es generalizing s with
  | nil => exact handle_rsp s e
  | cons e' es ih => rw [List.cons_append, State.afterTrace, ih, block_handle, run_cons]

/-- A trace with no `ByteReceived` leaves the memory as it is (spec/41_request.md R80, spec/42_finish.md R85). -/
theorem afterTrace_mem_of_not_received (s : State) {es : List Event} (h : ∀ v, Event.byteReceived v ∉ es) :
    (s.afterTrace es).mem = s.mem := by
  induction es generalizing s with
  | nil => rfl
  | cons e es ih =>
    rw [State.afterTrace, ih (s.handle e) fun v hv => h v (List.mem_cons_of_mem e hv)]
    cases e with
    | byteReceived v => exact absurd List.mem_cons_self (h v)
    | byteRequested => rfl
    | finished => rfl

/-! ### Runs of the transition table -/

theorem run_append (b : Block) (es fs : List Event) : b.run (es ++ fs) = (b.run es).run fs := by
  induction es generalizing b with
  | nil => rfl
  | cons e es ih => exact ih (b.step e)

theorem outs_append (b : Block) (es fs : List Event) : b.outs (es ++ fs) = b.outs es ++ (b.run es).outs fs := by
  induction es generalizing b with
  | nil => rfl
  | cons e es ih => rw [List.cons_append, outs_cons, ih, outs_cons, run_cons, List.append_assoc]

/-- The next cursor and flag do not depend on the slots (spec/20_memory.md, section 5, point (b)). -/
theorem step_cursor_latched_congr {b b' : Block} (hc : b.cursor = b'.cursor) (hl : b.latched = b'.latched) (e : Event) :
    (b.step e).cursor = (b'.step e).cursor ∧ (b.step e).latched = (b'.step e).latched := by
  cases e with
  | byteReceived v =>
    cases h : b'.latched
    · simp [Block.step, hl, h]
    · simp [Block.step, hl, h, hc]
  | byteRequested => exact ⟨congrArg (· + 1) hc, hl⟩
  | finished => exact ⟨hc, rfl⟩

theorem run_cursor_latched_congr {b b' : Block} (hc : b.cursor = b'.cursor) (hl : b.latched = b'.latched)
    (es : List Event) : (b.run es).cursor = (b'.run es).cursor ∧ (b.run es).latched = (b'.run es).latched := by
  induction es generalizing b b' with
  | nil => exact ⟨hc, hl⟩
  | cons e es ih =>
    obtain ⟨hcStep, hlStep⟩ := step_cursor_latched_congr hc hl e
    exact ih hcStep hlStep

/-! ### The flag after a trace -/

/-- Some `ByteReceived` of the trace has no `Finished` after it (spec/10_state.md, section 2). -/
def ReceivedSinceFinished (es : List Event) : Prop :=
  ∃ pre v post, es = pre ++ Event.byteReceived v :: post ∧ Event.finished ∉ post

theorem not_receivedSinceFinished_nil : ¬ ReceivedSinceFinished [] := by
  rintro ⟨pre, v, post, h, -⟩
  simp at h

theorem receivedSinceFinished_cons {e : Event} {es : List Event} :
    ReceivedSinceFinished (e :: es) ↔ (∃ v, e = .byteReceived v) ∧ Event.finished ∉ es ∨ ReceivedSinceFinished es := by
  constructor
  · rintro ⟨pre, v, post, h, hpost⟩
    cases pre with
    | nil =>
      obtain ⟨rfl, rfl⟩ := List.cons_eq_cons.1 h
      exact .inl ⟨⟨v, rfl⟩, hpost⟩
    | cons e' pre => exact .inr ⟨pre, v, post, (List.cons_eq_cons.1 h).2, hpost⟩
  · rintro (⟨⟨v, rfl⟩, hes⟩ | ⟨pre, v, post, rfl, hpost⟩)
    · exact ⟨[], v, es, rfl, hes⟩
    · exact ⟨e :: pre, v, post, rfl, hpost⟩

/-- The flag after an event: `ByteReceived` sets it and `Finished` clears it (spec/10_state.md R12). -/
theorem step_latched_iff (b : Block) (e : Event) :
    (b.step e).latched = true ↔ (∃ v, e = .byteReceived v) ∨ b.latched = true ∧ e ≠ .finished := by
  cases e with
  | byteReceived v => cases h : b.latched <;> simp [Block.step, h]
  | byteRequested => simp [Block.step]
  | finished => simp [Block.step]

/-- The flag after a trace from any state: it was set in the trace and not cleared since, or it was set before and the
trace does not clear it. -/
theorem run_latched_iff (b : Block) (es : List Event) :
    (b.run es).latched = true ↔ ReceivedSinceFinished es ∨ b.latched = true ∧ Event.finished ∉ es := by
  induction es generalizing b with
  | nil => simp [not_receivedSinceFinished_nil]
  | cons e es ih =>
    rw [run_cons, ih, step_latched_iff, receivedSinceFinished_cons, List.mem_cons]
    have hne : (Event.finished = e) ↔ (e = Event.finished) := eq_comm
    tauto

end Sys2Proof.Machine

namespace Sys2Proof.Proofs

open Sys2Proof.Machine

/-- Settles O25: induction on the trace, one row of the transition table per step. -/
theorem runRefinesTheTransitionTable : Obligations.RunRefinesTheTransitionTable := fun es s =>
  ⟨s.afterTrace es, runTrace_eq es s, afterTrace_block s es, afterTrace_responses s es, afterTrace_pending s es,
    afterTrace_slaveAddr s es⟩

/-- Settles O26: the flag is false at reset, so it is true only where the trace has set it and not cleared it since. -/
theorem flagTrueIffByteReceivedSinceFinished : Obligations.FlagTrueIffByteReceivedSinceFinished := by
  refine fun es => ⟨_, runTrace_eq es _, ?_⟩
  have hreset : State.reset.block.latched = false := rfl
  rw [afterTrace_latched, run_latched_iff, hreset]
  exact or_iff_left fun h => nomatch h.1

/-- Settles O32: the transition table computes the cursor and the flag from the cursor and the flag alone. -/
theorem memoryNeverSteersTheBlock : Obligations.MemoryNeverSteersTheBlock := by
  intro s s' es hc hl
  refine ⟨_, _, runTrace_eq es s, runTrace_eq es s', ?_⟩
  rw [afterTrace_cursor, afterTrace_cursor, afterTrace_latched, afterTrace_latched]
  exact run_cursor_latched_congr (b := s.block) (b' := s'.block) hc hl es

end Sys2Proof.Proofs
end

section
/-! PROOFS. The laws of bursts: what data bytes in a row store, what requests in a row are served, and the traces built from
them (spec/40_receive.md, the write-burst law, spec/41_request.md, the read-burst and the split-read law). -/

namespace Sys2Proof.Machine

/-! ### Cursor arithmetic modulo 256 -/

theorem add_ofNat_succ (c : Byte) (k : Nat) : c + BitVec.ofNat 8 (k + 1) = c + 1 + BitVec.ofNat 8 k := by
  rw [Nat.add_comm, BitVec.ofNat_add, BitVec.add_assoc]
  rfl

theorem add_ofNat_add (c : Byte) (j k : Nat) :
    c + BitVec.ofNat 8 (j + k) = c + BitVec.ofNat 8 j + BitVec.ofNat 8 k := by
  rw [BitVec.ofNat_add, BitVec.add_assoc]

/-- Up to 256 slots in a row are different slots. -/
theorem add_ofNat_ne {c : Byte} {j k : Nat} (hjk : j < k) (hk : k < 256) :
    c + BitVec.ofNat 8 k ≠ c + BitVec.ofNat 8 j := by
  intro h
  have hnat := congrArg BitVec.toNat (add_left_cancel h)
  simp only [BitVec.toNat_ofNat] at hnat
  omega

/-! ### A `Finished` that is there or not -/

/-- A `Finished` that is there or not (spec/43_bus_operations.md R96). -/
theorem run_finishedIf (b : Block) (c : Bool) :
    b.run (if c then [Event.finished] else []) = { b with latched := b.latched && !c } := by
  cases c <;> simp

theorem outs_finishedIf (b : Block) (c : Bool) : b.outs (if c then [Event.finished] else []) = [] := by
  cases c <;> rfl

/-! ### Data bytes in a row -/

/-- The slots after the bytes have been stored from slot `c` on, modulo 256. Tied to the transition table by
`run_dataBytes`. -/
def fillSlots (slots : Byte → Byte) (c : Byte) : List Byte → Byte → Byte
  | [] => slots
  | d :: ds => fillSlots (fun a => if a = c then d else slots a) (c + 1) ds

theorem fillSlots_of_not_reached {slots : Byte → Byte} {c b : Byte} {ds : List Byte}
    (h : ∀ j, j < ds.length → c + BitVec.ofNat 8 j ≠ b) : fillSlots slots c ds b = slots b := by
  induction ds generalizing slots c with
  | nil => rfl
  | cons d ds ih =>
    have hfirst : b ≠ c := by simpa [eq_comm] using h 0 (Nat.succ_pos _)
    rw [fillSlots, ih fun j hj => ?_, if_neg hfirst]
    rw [← add_ofNat_succ]
    exact h (j + 1) (Nat.succ_lt_succ hj)

/-- A slot holds the last byte that reaches it. -/
theorem fillSlots_of_last {slots : Byte → Byte} {c : Byte} {ds : List Byte} {j : Nat} (hj : j < ds.length)
    (hlast : ∀ k, j < k → k < ds.length → c + BitVec.ofNat 8 k ≠ c + BitVec.ofNat 8 j) :
    fillSlots slots c ds (c + BitVec.ofNat 8 j) = ds[j] := by
  induction ds generalizing slots c j with
  | nil => exact absurd hj (Nat.not_lt_zero j)
  | cons d ds ih =>
    rw [fillSlots]
    cases j with
    | zero =>
      rw [fillSlots_of_not_reached fun k hk => ?_]
      · simp
      · rw [← add_ofNat_succ]
        exact hlast (k + 1) (Nat.succ_pos k) (Nat.succ_lt_succ hk)
    | succ j =>
      rw [add_ofNat_succ]
      refine ih (Nat.lt_of_succ_lt_succ hj) fun k hjk hk => ?_
      rw [← add_ofNat_succ, ← add_ofNat_succ]
      exact hlast (k + 1) (Nat.succ_lt_succ hjk) (Nat.succ_lt_succ hk)

/-- Of at most 256 bytes every one stays in its slot. -/
theorem fillSlots_of_length_le {slots : Byte → Byte} {c : Byte} {ds : List Byte} (hlen : ds.length ≤ 256) {j : Nat}
    (hj : j < ds.length) : fillSlots slots c ds (c + BitVec.ofNat 8 j) = ds[j] :=
  fillSlots_of_last hj fun _ hjk hk => add_ofNat_ne hjk (hk.trans_le hlen)

/-- Reading back the first of at most 256 stored bytes. -/
theorem map_fillSlots {slots : Byte → Byte} {c : Byte} {ds : List Byte} (hlen : ds.length ≤ 256) {i : Nat}
    (hi : i ≤ ds.length) : (List.range i).map (fun j => fillSlots slots c ds (c + BitVec.ofNat 8 j)) = ds.take i := by
  refine List.ext_getElem (by simp [hi]) fun j hj _ => ?_
  have hj' : j < i := by simpa using hj
  simp [fillSlots_of_length_le hlen (hj'.trans_le hi)]

/-- 256 bytes from slot 0 on are the whole contents. -/
theorem fillSlots_all (slots m : Byte → Byte) :
    fillSlots slots 0 ((List.range 256).map fun i => m (BitVec.ofNat 8 i)) = m := by
  funext a
  have hlen : ((List.range 256).map fun i => m (BitVec.ofNat 8 i)).length = 256 := by
    rw [List.length_map, List.length_range]
  have hget := fillSlots_of_length_le (slots := slots) (c := 0) hlen.le (a.isLt.trans_eq hlen.symm)
  have haddr : BitVec.ofNat 8 a.toNat = a := by rw [BitVec.ofNat_toNat, BitVec.setWidth_eq]
  rwa [List.getElem_map, List.getElem_range, haddr, zero_add] at hget

theorem run_dataBytes {b : Block} (h : b.latched = true) (ds : List Byte) :
    b.run (ds.map Event.byteReceived) =
      { slots := fillSlots b.slots b.cursor ds, cursor := b.cursor + BitVec.ofNat 8 ds.length, latched := true } := by
  induction ds generalizing b with
  | nil =>
    obtain ⟨slots, c, l⟩ := b
    obtain rfl : l = true := h
    simp [fillSlots]
  | cons d ds ih =>
    rw [List.map_cons, run_cons, step_dataByte d h, ih rfl, List.length_cons, add_ofNat_succ]
    rfl

/-- The block after an address byte and data bytes (spec/40_receive.md, the write-burst law). -/
theorem run_writeBurst {b : Block} (h : b.latched = false) (a : Byte) (ds : List Byte) :
    b.run (Event.byteReceived a :: ds.map Event.byteReceived) =
      { slots := fillSlots b.slots a ds, cursor := a + BitVec.ofNat 8 ds.length, latched := true } := by
  rw [run_cons, step_addressByte a h, run_dataBytes rfl]

theorem outs_received_map (b : Block) (ds : List Byte) : b.outs (ds.map Event.byteReceived) = [] := by
  induction ds generalizing b with
  | nil => rfl
  | cons d ds ih => exact ih _

/-! ### Requests in a row -/

theorem run_requests (b : Block) (k : Nat) :
    b.run (List.replicate k Event.byteRequested) = { b with cursor := b.cursor + BitVec.ofNat 8 k } := by
  induction k generalizing b with
  | zero => simp
  | succ k ih => rw [List.replicate_succ, run_cons, ih, step_byteRequested, add_ofNat_succ]

/-- The responses to requests in a row (spec/41_request.md, the read-burst law). -/
theorem outs_requests (b : Block) (k : Nat) :
    b.outs (List.replicate k Event.byteRequested) = (List.range k).map fun i => b.slots (b.cursor + BitVec.ofNat 8 i) := by
  induction k generalizing b with
  | zero => rfl
  | succ k ih =>
    rw [List.replicate_succ, outs_requested, ih, List.range_succ_eq_map, List.map_cons, List.map_map]
    refine congrArg₂ List.cons (by simp) (List.map_congr_left fun i _ => ?_)
    exact congrArg b.slots (add_ofNat_succ b.cursor i).symm

/-- A read in two parts, with or without a `Finished` between them, is served what the read in one is
(spec/41_request.md, the split-read law). -/
theorem outs_splitRead (b : Block) (j n : Nat) (c : Bool) :
    b.outs (List.replicate j Event.byteRequested ++ (if c then [Event.finished] else []) ++
      List.replicate n Event.byteRequested) = b.outs (List.replicate (j + n) Event.byteRequested) := by
  rw [outs_append, outs_append, run_append, run_requests, run_finishedIf, outs_finishedIf, List.append_nil,
    outs_requests, outs_requests, outs_requests, List.range_add, List.map_append, List.map_map]
  simp [Function.comp_def, add_ofNat_add]

/-- The block after a read in two parts. -/
theorem run_splitRead (b : Block) (j n : Nat) (c : Bool) :
    b.run (List.replicate j Event.byteRequested ++ (if c then [Event.finished] else []) ++
      List.replicate n Event.byteRequested) =
      { b with cursor := b.cursor + BitVec.ofNat 8 (j + n), latched := b.latched && !c } := by
  rw [run_append, run_append, run_requests, run_finishedIf, run_requests, add_ofNat_add]

end Sys2Proof.Machine

namespace Sys2Proof.Proofs

open Sys2Proof.Machine

/-- Settles O28: the run fills the slots from the address byte on, and each slot keeps the last byte that reaches it. -/
theorem writeBurstFillsConsecutiveSlots : Obligations.WriteBurstFillsConsecutiveSlots := by
  intro s a ds hl
  have hrun := run_writeBurst (b := s.block) hl a ds
  refine ⟨_, runTrace_eq _ s, ?cursor, ?latched, ?responses, fun j hj hlast => ?last, fun b hb => ?frame,
    fun hlen j hj => ?all⟩
  case cursor => rw [afterTrace_cursor, hrun]
  case latched => rw [afterTrace_latched, hrun]
  case responses => rw [afterTrace_responses, outs_received, outs_received_map, List.append_nil]
  case last => rw [afterTrace_memRead, hrun]; exact fillSlots_of_last hj hlast
  case frame => rw [afterTrace_memRead, hrun]; exact fillSlots_of_not_reached hb
  case all => rw [afterTrace_memRead, hrun]; exact fillSlots_of_length_le hlen hj

/-- Settles O29: each request moves the cursor on by one and no slot changes. -/
theorem readBurstServesConsecutiveSlots : Obligations.ReadBurstServesConsecutiveSlots := by
  intro s k
  refine ⟨_, runTrace_eq _ s, ?responses, ?cursor, afterTrace_mem_of_not_received s fun v => by simp, ?latched⟩
  case responses => rw [afterTrace_responses, outs_requests, block_slots, block_cursor]
  case cursor => rw [afterTrace_cursor, run_requests, block_cursor]
  case latched => rw [afterTrace_latched, run_requests, block_latched]

/-- Settles O30: both runs serve the same slots, and a `Finished` changes the flag alone. -/
theorem splitReadEqualsUnsplitRead : Obligations.SplitReadEqualsUnsplitRead := by
  intro s j n between
  refine ⟨_, _, runTrace_eq _ s, runTrace_eq _ s, ?responses, ?mem, ?cursor, ?latched⟩
  case responses => rw [afterTrace_responses, afterTrace_responses, outs_splitRead]
  case mem =>
    rw [afterTrace_mem_of_not_received s fun v => ?split, afterTrace_mem_of_not_received s fun v => ?whole]
    case split => cases between <;> simp
    case whole => simp
  case cursor => rw [afterTrace_cursor, afterTrace_cursor, run_splitRead, run_requests]
  case latched =>
    rw [afterTrace_latched, run_splitRead]
    cases between <;> simp

/-- Settles O33: the read-burst law from cursor 0, where no slot has been written. -/
theorem readsFromResetServeInitialContents : Obligations.ReadsFromResetServeInitialContents := by
  refine fun k => ⟨_, runTrace_eq _ _, ?_⟩
  have hslot (i : Nat) : State.reset.memRead (State.reset.cursor + BitVec.ofNat 8 i) =
      Config.memInit (BitVec.ofNat 8 i) := by
    have hcursor : State.reset.cursor + BitVec.ofNat 8 i = BitVec.ofNat 8 i := BitVec.zero_add _
    rw [hcursor]
    exact Memory.read_nil _
  rw [afterTrace_responses, outs_requests]
  exact List.map_congr_left fun i _ => hslot i

/-- Settles O31: after the write the cursor is 6, which `Finished` keeps and the request reads. -/
theorem cursorPersistsAcrossFinished : Obligations.CursorPersistsAcrossFinished := by
  intro s x hl
  have hwrite : s.block.run [.byteReceived 5, .byteReceived x, .finished] =
      { slots := fun a => if a = 5 then x else s.memRead a, cursor := 6, latched := false } := by
    have hburst := run_writeBurst (b := s.block) hl 5 [x]
    exact congrArg (Block.step · .finished) hburst
  have hrun : s.block.run [.byteReceived 5, .byteReceived x, .finished, .byteRequested] =
      { slots := fun a => if a = 5 then x else s.memRead a, cursor := 7, latched := false } :=
    congrArg (Block.step · .byteRequested) hwrite
  refine ⟨_, runTrace_eq _ s, ?rsp, ?cursor, ?latched, ?slot⟩
  case rsp =>
    refine (afterTrace_concat_rsp s [.byteReceived 5, .byteReceived x, .finished] .byteRequested).trans ?_
    rw [hwrite]
    rfl
  case cursor => rw [afterTrace_cursor, hrun]
  case latched => rw [afterTrace_latched, hrun]
  case slot => rw [afterTrace_memRead, hrun]; rfl

/-- Settles O27: the 256 data bytes are the whole contents, the address byte is the cursor, and a last `Finished` clears the
flag. -/
theorem everyBlockIsReachable : Obligations.EveryBlockIsReachable := by
  refine fun m c l => ⟨_, runTrace_eq _ _, ?_⟩
  have hdata : (List.range 256).map (fun i => Event.byteReceived (m (BitVec.ofNat 8 i))) =
      ((List.range 256).map fun i => m (BitVec.ofNat 8 i)).map Event.byteReceived := List.map_map.symm
  have hlast (b : Block) : b.run (if l then [] else [Event.finished]) = { b with latched := b.latched && l } := by
    cases l <;> simp
  rw [afterTrace_block, hdata, run_append, run_append, run_writeBurst rfl, fillSlots_all, hlast]
  simp [step_addressByte]

end Sys2Proof.Proofs
end

section
/-! PROOFS. The statements about bus operations: the events that the Transport makes of them, and what sequences of them do
to the block (spec/43_bus_operations.md, sections 1, 2 and 4). -/

namespace Sys2Proof.Machine

/-! ### The events of an operation -/

@[simp] theorem target_write (t : BusAddr) (bs : List Byte) (k : Bool) : (BusOp.write t bs k).target = t := rfl
@[simp] theorem target_read (t : BusAddr) (n : Nat) (k : Bool) : (BusOp.read t n k).target = t := rfl

@[simp] theorem events_write (t : BusAddr) (bs : List Byte) (k : Bool) :
    (BusOp.write t bs k).events = bs.map Event.byteReceived := List.append_nil _

@[simp] theorem events_read (t : BusAddr) (n : Nat) (k : Bool) :
    (BusOp.read t n k).events = List.replicate n Event.byteRequested := rfl

@[simp] theorem finishes_write (t : BusAddr) (bs : List Byte) (k restart more : Bool) :
    (BusOp.write t bs k).finishes restart more = (!k || (restart && more)) := rfl

@[simp] theorem finishes_read (t : BusAddr) (n : Nat) (k restart more : Bool) :
    (BusOp.read t n k).finishes restart more = (!k || (restart && more)) := rfl

/-- The byte an event carries to the slave. -/
def Event.received : Event → Option Byte
  | .byteReceived v => some v
  | _ => none

theorem filterMap_received_events (op : BusOp) : op.events.filterMap Event.received = op.sent := by
  have hsent (bs : List Byte) : (bs.map Event.byteReceived).filterMap Event.received = bs := by
    rw [List.filterMap_map]
    exact List.filterMap_some
  simp [BusOp.events, hsent, List.filterMap_replicate, Event.received]

theorem count_byteRequested_events (op : BusOp) : op.events.count .byteRequested = op.taken := by
  have hsent : Event.byteRequested ∉ op.sent.map Event.byteReceived := by simp
  rw [BusOp.events, List.count_append, List.count_eq_zero_of_not_mem hsent, List.count_replicate_self, Nat.zero_add]

theorem count_finished_events (op : BusOp) : op.events.count .finished = 0 := by
  refine List.count_eq_zero_of_not_mem ?_
  simp [BusOp.events]

/-! ### The trace of a list of operations -/

theorem busTrace_cons_selected {restart : Bool} {sa : BusAddr} {op : BusOp} (h : op.target = sa) (ops : List BusOp) :
    busTrace restart sa (op :: ops) =
      op.events ++ (if op.finishes restart !ops.isEmpty then [Event.finished] else []) ++ busTrace restart sa ops := by
  rw [busTrace, if_pos h]

/-- An operation addressed elsewhere causes no event (spec/43_bus_operations.md R91). -/
theorem busTrace_cons_elsewhere {restart : Bool} {sa : BusAddr} {op : BusOp} (h : op.target ≠ sa) (ops : List BusOp) :
    busTrace restart sa (op :: ops) = busTrace restart sa ops := by
  rw [busTrace, if_neg h, List.nil_append]

theorem filterMap_received_finishedIf (c : Bool) :
    (if c then [Event.finished] else []).filterMap Event.received = [] := by cases c <;> rfl

theorem count_byteRequested_finishedIf (c : Bool) :
    (if c then [Event.finished] else []).count .byteRequested = 0 := by cases c <;> rfl

theorem count_finished_finishedIf (c : Bool) :
    (if c then [Event.finished] else []).count .finished = if c then 1 else 0 := by cases c <;> rfl

/-- Without `FINISH_ON_RESTART` a `Finished` follows exactly the operations that release the bus
(spec/43_bus_operations.md R96). -/
theorem finishes_false (op : BusOp) (more : Bool) : op.finishes false more = !op.keepBus := Bool.or_false _

theorem filterMap_received_busTrace (restart : Bool) (sa : BusAddr) (ops : List BusOp) :
    (busTrace restart sa ops).filterMap Event.received =
      (ops.filter fun op => op.target = sa).flatMap BusOp.sent := by
  induction ops with
  | nil => rfl
  | cons op ops ih =>
    by_cases h : op.target = sa
    · simp [busTrace_cons_selected h, filterMap_received_events, filterMap_received_finishedIf, ih, h]
    · simp [busTrace_cons_elsewhere h, ih, h]

theorem count_byteRequested_busTrace (restart : Bool) (sa : BusAddr) (ops : List BusOp) :
    (busTrace restart sa ops).count .byteRequested =
      ((ops.filter fun op => op.target = sa).map BusOp.taken).sum := by
  induction ops with
  | nil => rfl
  | cons op ops ih =>
    by_cases h : op.target = sa
    · simp [busTrace_cons_selected h, count_byteRequested_events, count_byteRequested_finishedIf, ih, h]
    · simp [busTrace_cons_elsewhere h, ih, h]

theorem count_finished_busTrace (sa : BusAddr) (ops : List BusOp) :
    (busTrace false sa ops).count .finished = (ops.filter fun op => op.target = sa).countP fun op => !op.keepBus := by
  induction ops with
  | nil => rfl
  | cons op ops ih =>
    by_cases h : op.target = sa
    · rw [busTrace_cons_selected h, List.count_append, List.count_append, count_finished_events, finishes_false,
        count_finished_finishedIf, ih, List.filter_cons_of_pos (by simpa using h), List.countP_cons]
      omega
    · simp [busTrace_cons_elsewhere h, ih, h]

theorem busTrace_eq_nil {sa : BusAddr} {ops : List BusOp} (h : ∀ op ∈ ops, op.target ≠ sa) (restart : Bool) :
    busTrace restart sa ops = [] := by
  induction ops with
  | nil => rfl
  | cons op ops ih =>
    obtain ⟨hop, hops⟩ := List.forall_mem_cons.1 h
    rw [busTrace_cons_elsewhere hop, ih hops]

/-! ### Writes and seeks -/

/-- The block after a write that ends with a `Finished`. -/
theorem run_write {b : Block} (h : b.latched = false) (a : Byte) (ds : List Byte) :
    b.run (Event.byteReceived a :: ds.map Event.byteReceived ++ [Event.finished]) =
      { slots := fillSlots b.slots a ds, cursor := a + BitVec.ofNat 8 ds.length, latched := false } := by
  rw [run_append, run_writeBurst h]
  rfl

/-- The events of a write from `a` on and a seek back to `a`, with or without a `Finished` after the seek. -/
def writeThenSeek (a : Byte) (ds : List Byte) (finish : Bool) : List Event :=
  (Event.byteReceived a :: ds.map Event.byteReceived ++ [Event.finished]) ++
    (Event.byteReceived a :: if finish then [Event.finished] else [])

theorem run_writeThenSeek {b : Block} (h : b.latched = false) (a : Byte) (ds : List Byte) (finish : Bool) :
    b.run (writeThenSeek a ds finish) =
      { slots := fillSlots b.slots a ds, cursor := a, latched := !finish } := by
  rw [writeThenSeek, run_append, run_write h, run_cons, step_addressByte a rfl, run_finishedIf, Bool.true_and]

theorem outs_writeThenSeek (b : Block) (a : Byte) (ds : List Byte) (finish : Bool) :
    b.outs (writeThenSeek a ds finish) = [] := by
  rw [writeThenSeek, outs_append, outs_append, outs_received, outs_received_map, outs_received, outs_finishedIf]
  rfl

theorem length_writeThenSeek (a : Byte) (ds : List Byte) (finish : Bool) :
    (writeThenSeek a ds finish).length = ds.length + 3 + (if finish then 1 else 0) := by
  cases finish <;> simp [writeThenSeek]

/-! ### The traces of the sequences of spec/43_bus_operations.md, sections 2 and 4 -/

theorem busTrace_seek (restart : Bool) (sa : BusAddr) (a : Byte) :
    busTrace restart sa [opSeek sa a] = [.byteReceived a, .finished] := by
  simp [busTrace, opSeek]

theorem busTrace_writeKeep_write (restart : Bool) (sa : BusAddr) (bs cs : List Byte) :
    busTrace restart sa [opWriteKeep sa bs, opWrite sa cs] =
      bs.map Event.byteReceived ++ (if restart then [Event.finished] else []) ++
        (cs.map Event.byteReceived ++ [Event.finished]) := by
  simp [busTrace, opWriteKeep, opWrite]

theorem busTrace_write_seek_read (restart keep : Bool) (sa : BusAddr) (a : Byte) (ds : List Byte) (i : Nat) :
    busTrace restart sa [opWrite sa (a :: ds), .write sa [a] keep, opRead sa i] =
      writeThenSeek a ds (!keep || restart) ++ (List.replicate i Event.byteRequested ++ [Event.finished]) := by
  simp [busTrace, opWrite, opRead, writeThenSeek]

end Sys2Proof.Machine

namespace Sys2Proof.Proofs

open Sys2Proof.Machine

/-- Settles O34: induction on the operations, each of which is selected by its address or causes no event. -/
theorem transportDeliversEachByteOnce : Obligations.TransportDeliversEachByteOnce := fun restart sa ops =>
  ⟨filterMap_received_busTrace restart sa ops, count_byteRequested_busTrace restart sa ops,
    count_finished_busTrace sa ops, fun h => busTrace_eq_nil h restart⟩

/-- Settles O36: the address byte loads the cursor and the `Finished` clears the flag again. -/
theorem seekSetsOnlyTheCursor : Obligations.SeekSetsOnlyTheCursor := by
  intro restart s a hl
  have hclear : ({ s with cursor := a, pending := [], rsp := none } : State) =
      { s with cursor := a, latched := false, pending := [], rsp := none } := by rw [← hl]
  rw [busTrace_seek, runTrace_eq, State.afterTrace, handle_addressByte a hl, latchAddress_eq, hclear]
  rfl

/-- Settles O35: with the `Finished` at the junction the operations are two writes, without it they are one write of three
bytes. -/
theorem restartFinishDecidesTheSecondAddress : Obligations.RestartFinishDecidesTheSecondAddress := by
  intro s a x b y hl
  have htwo : s.block.run (busTrace true s.slaveAddr [opWriteKeep s.slaveAddr [a, x], opWrite s.slaveAddr [b, y]]) =
      { slots := fillSlots (fillSlots s.memRead a [x]) b [y], cursor := b + 1, latched := false } := by
    rw [busTrace_writeKeep_write, run_append]
    exact (congrArg (Block.run · _) (run_write (b := s.block) hl a [x])).trans (run_write rfl b [y])
  have hone : s.block.run (busTrace false s.slaveAddr [opWriteKeep s.slaveAddr [a, x], opWrite s.slaveAddr [b, y]]) =
      { slots := fillSlots s.memRead a [x, b, y], cursor := a + 3, latched := false } := by
    rw [busTrace_writeKeep_write]
    exact run_write (b := s.block) hl a [x, b, y]
  have hlen : [x, b, y].length ≤ 256 := by simp
  refine ⟨⟨_, runTrace_eq _ s, ?_⟩, ⟨_, runTrace_eq _ s, ?_⟩⟩
  · simp only [afterTrace_memRead, afterTrace_cursor, afterTrace_latched, htwo]
    exact ⟨by simp [fillSlots], fun hab => by simp [fillSlots, hab], trivial, trivial⟩
  · simp only [afterTrace_memRead, afterTrace_cursor, afterTrace_latched, hone]
    have hslot {j : Nat} (hj : j < 3) := fillSlots_of_length_le (slots := s.memRead) (c := a) hlen hj
    have hfirst : fillSlots s.memRead a [x, b, y] a = x :=
      (congrArg _ (add_zero a).symm).trans (hslot (j := 0) (by decide))
    exact ⟨hfirst, hslot (j := 1) (by decide), hslot (j := 2) (by decide), trivial, trivial⟩

/-- Settles O37: the write fills the slots, the seek takes the cursor back to the first of them, and requests are served
from there. -/
theorem writeThenReadBackReturnsTheData : Obligations.WriteThenReadBackReturnsTheData := by
  intro restart keep s a ds i hl hlen hi
  have hseek := run_writeThenSeek (b := s.block) hl a ds (!keep || restart)
  refine ⟨_, runTrace_eq _ s, ?responses, ?cursor, ?latched⟩
  all_goals rw [busTrace_write_seek_read]
  case responses =>
    rw [afterTrace_responses, outs_append, outs_writeThenSeek, List.nil_append, hseek, outs_append, outs_requests,
      map_fillSlots hlen hi]
    simp
  case cursor => rw [afterTrace_cursor, run_append, hseek, run_append, run_requests]; rfl
  case latched => rw [afterTrace_latched, run_append, hseek, run_append, run_requests]; rfl

end Sys2Proof.Proofs
end

section
/-! PROOFS. The statements about the Master Exchange Driver: an iteration in which nothing fails, the two ways it stops, and
its offsets (spec/43_bus_operations.md R98 to R102). -/

namespace Sys2Proof.Machine

/-! ### What the driver makes of a result, phase by phase -/

theorem observe_write {d : Driver} (h : d.phase = .write) (r : BusResult) :
    d.observe r = d.afterWrite (d.params.payload.length + 1) .seek r := by rw [Driver.observe, h]

theorem observe_seek {d : Driver} (h : d.phase = .seek) (r : BusResult) :
    d.observe r = d.afterWrite 1 .readA r := by rw [Driver.observe, h]

theorem observe_readA {d : Driver} (h : d.phase = .readA) (r : BusResult) :
    d.observe r = d.afterRead (d.params.payload.take d.params.split) { d with phase := .readB } r := by
  rw [Driver.observe, h]

theorem observe_readB {d : Driver} (h : d.phase = .readB) (r : BusResult) :
    d.observe r = d.afterRead (d.params.payload.drop d.params.split) d.nextIteration r := by rw [Driver.observe, h]

theorem observe_halted {d : Driver} {why : DriverFailure} (h : d.phase = .halted why) (r : BusResult) :
    d.observe r = d := by rw [Driver.observe, h]

@[simp] theorem fail_phase (d : Driver) (why : DriverFailure) : (d.fail why).phase = .halted why := rfl

/-- A count that is not short lets the driver go on (spec/43_bus_operations.md R98). -/
theorem afterWrite_of_le {d : Driver} {expected n : Nat} (ok : DriverPhase) (h : expected ≤ n) :
    d.afterWrite expected ok (.wrote n) = { d with phase := ok } := if_neg (Nat.not_lt.2 h)

theorem afterWrite_of_lt {d : Driver} {expected n : Nat} (ok : DriverPhase) (h : n < expected) :
    d.afterWrite expected ok (.wrote n) = d.fail .transportFault := if_pos h

/-- The expected bytes let the driver go on (spec/43_bus_operations.md R98). -/
theorem afterRead_self (d ok : Driver) (expected : List Byte) : d.afterRead expected ok (.got expected) = ok := by
  rw [Driver.afterRead, if_neg (Nat.lt_irrefl _), if_pos rfl]

theorem afterRead_of_lt {d ok : Driver} {expected bs : List Byte} (h : bs.length < expected.length) :
    d.afterRead expected ok (.got bs) = d.fail .transportFault := if_pos h

theorem afterRead_of_ne {d ok : Driver} {expected bs : List Byte} (hlen : bs.length = expected.length)
    (hne : bs ≠ expected) : d.afterRead expected ok (.got bs) = d.fail .dataMismatch := by
  rw [Driver.afterRead, if_neg (Nat.not_lt.2 hlen.ge), if_neg hne]

/-- In every phase but a stopped one an error is a transport fault (spec/43_bus_operations.md R101). -/
theorem observe_error {d : Driver} (h : ∀ why, d.phase ≠ .halted why) : d.observe .error = d.fail .transportFault := by
  cases hp : d.phase with
  | write => rw [observe_write hp]; rfl
  | seek => rw [observe_seek hp]; rfl
  | readA => rw [observe_readA hp]; rfl
  | readB => rw [observe_readB hp]; rfl
  | halted why => exact absurd hp (h why)

theorem foldl_observe_halted {d : Driver} {why : DriverFailure} (h : d.phase = .halted why) (rs : List BusResult) :
    rs.foldl Driver.observe d = d := by
  induction rs with
  | nil => rfl
  | cons r rs ih => rw [List.foldl_cons, observe_halted h, ih]

theorem split_lt_length {p : DriverParams} (h : p.wellFormed = true) : p.split < p.payload.length := by
  simp only [DriverParams.wellFormed, Bool.and_eq_true, decide_eq_true_eq] at h
  exact h.2

/-! ### One iteration -/

theorem filterMap_nextOp (sa : BusAddr) (d : Driver) :
    [DriverPhase.write, .seek, .readA, .readB].filterMap (fun ph => Driver.nextOp sa { d with phase := ph }) =
      d.iterationOps sa := rfl

/-- The events of a read in two parts with a `Finished` between or not, and one after. -/
def splitRead (j n : Nat) (between : Bool) : List Event :=
  List.replicate j Event.byteRequested ++ (if between then [Event.finished] else []) ++ List.replicate n Event.byteRequested ++
    [Event.finished]

theorem busTrace_iterationOps (restart : Bool) (sa : BusAddr) (d : Driver) :
    busTrace restart sa (d.iterationOps sa) =
      writeThenSeek d.offset d.params.payload restart ++
        splitRead d.params.split (d.params.payload.length - d.params.split) restart := by
  simp [busTrace, Driver.iterationOps, Driver.writeOp, Driver.seekOp, Driver.readAOp, Driver.readBOp, opWrite, opSeekKeep,
    opReadKeep, opRead, writeThenSeek, splitRead]

theorem length_splitRead (j n : Nat) (between : Bool) :
    (splitRead j n between).length = j + n + 1 + (if between then 1 else 0) := by
  cases between
  · simp [splitRead]
  · simp [splitRead]; omega

/-- An iteration of a payload of length `L` causes `2L + 4` events, or `2L + 6` (spec/43_bus_operations.md R100). -/
theorem length_busTrace_iterationOps (restart : Bool) (sa : BusAddr) {d : Driver} (h : d.params.wellFormed = true) :
    (busTrace restart sa (d.iterationOps sa)).length = 2 * d.params.payload.length + (if restart then 6 else 4) := by
  have hsplit := split_lt_length h
  rw [busTrace_iterationOps, List.length_append, length_writeThenSeek, length_splitRead]
  cases restart
  · simp only [Bool.false_eq_true, if_false]; omega
  · simp only [if_true]; omega

/-- The block after an iteration: the payload is stored and the cursor is after it. -/
theorem run_iterationOps (restart : Bool) (sa : BusAddr) {b : Block} {d : Driver} (hl : b.latched = false)
    (h : d.params.wellFormed = true) :
    b.run (busTrace restart sa (d.iterationOps sa)) =
      { slots := fillSlots b.slots d.offset d.params.payload
        cursor := d.offset + BitVec.ofNat 8 d.params.payload.length
        latched := false } := by
  have hsum := Nat.add_sub_of_le (split_lt_length h).le
  rw [busTrace_iterationOps, run_append, run_writeThenSeek hl, splitRead, run_append, run_splitRead, hsum]
  rfl

/-- The responses of an iteration are the payload. -/
theorem outs_iterationOps (restart : Bool) (sa : BusAddr) {b : Block} {d : Driver} (hl : b.latched = false)
    (h : d.params.wellFormed = true) (hlen : d.params.payload.length ≤ 256) :
    b.outs (busTrace restart sa (d.iterationOps sa)) = d.params.payload := by
  have hsum := Nat.add_sub_of_le (split_lt_length h).le
  rw [busTrace_iterationOps, outs_append, outs_writeThenSeek, List.nil_append, run_writeThenSeek hl, splitRead,
    outs_append, outs_splitRead, hsum, outs_requests, map_fillSlots hlen le_rfl, List.take_length]
  exact List.append_nil _

theorem busResults_iterationOps (sa : BusAddr) (d : Driver) :
    busResults sa (d.iterationOps sa) d.params.payload =
      [.wrote (d.params.payload.length + 1), .wrote 1, .got (d.params.payload.take d.params.split),
        .got (d.params.payload.drop d.params.split)] := by
  simp [busResults, Driver.iterationOps, Driver.writeOp, Driver.seekOp, Driver.readAOp, Driver.readBOp, opWrite,
    opSeekKeep, opReadKeep, opRead, List.take_of_length_le]

/-- A driver that observes the results of an iteration in which nothing fails goes through its phases. -/
theorem foldl_observe_iteration {d : Driver} (h : d.phase = .write) :
    [BusResult.wrote (d.params.payload.length + 1), .wrote 1, .got (d.params.payload.take d.params.split),
        .got (d.params.payload.drop d.params.split)].foldl Driver.observe d = d.nextIteration := by
  have hwrite : d.observe (.wrote (d.params.payload.length + 1)) = { d with phase := .seek } :=
    (observe_write h _).trans (afterWrite_of_le _ le_rfl)
  have hseek : Driver.observe { d with phase := .seek } (.wrote 1) = { d with phase := .readA } :=
    (observe_seek rfl _).trans (afterWrite_of_le _ le_rfl)
  have hreadA : Driver.observe { d with phase := .readA } (.got (d.params.payload.take d.params.split)) =
      { d with phase := .readB } := (observe_readA rfl _).trans (afterRead_self _ _ _)
  have hreadB : Driver.observe { d with phase := .readB } (.got (d.params.payload.drop d.params.split)) =
      d.nextIteration := (observe_readB rfl _).trans (afterRead_self _ _ _)
  simp only [List.foldl_cons, List.foldl_nil, hwrite, hseek, hreadA, hreadB]

/-! ### The offsets -/

/-- The offset after `k` iterations (spec/43_bus_operations.md R102). -/
theorem offset_iterate_nextIteration (d : Driver) (k : Nat) :
    (Driver.nextIteration^[k] d).offset = d.offset + BitVec.ofNat 8 (32 * k) := by
  induction k with
  | zero => exact (add_zero d.offset).symm
  | succ k ih =>
    rw [Function.iterate_succ_apply', Nat.mul_succ, add_ofNat_add, ← ih]
    rfl

theorem toNat_offset_iterate (p : DriverParams) (k : Nat) :
    (Driver.nextIteration^[k] (Driver.start p)).offset.toNat = (p.offsetInit.toNat + 32 * k) % 256 := by
  rw [offset_iterate_nextIteration, BitVec.toNat_add, BitVec.toNat_ofNat, Nat.add_mod_mod]
  rfl

end Sys2Proof.Machine

namespace Sys2Proof.Proofs

open Sys2Proof.Machine

/-- Settles O38: the operations are a write, a seek back and a read in two parts, whose responses are the payload that the
driver compares with. -/
theorem driverIterationSucceeds : Obligations.DriverIterationSucceeds := by
  intro restart s d hl hphase hwf hlen
  have hrun := run_iterationOps restart s.slaveAddr (b := s.block) hl hwf
  refine ⟨filterMap_nextOp s.slaveAddr d, length_busTrace_iterationOps restart s.slaveAddr hwf, _, runTrace_eq _ s,
    fun i hi => ?stored, fun b hb => ?frame, ?cursor, ?latched, ?responses, ?driver⟩
  case stored => rw [afterTrace_memRead, hrun]; exact fillSlots_of_length_le hlen hi
  case frame => rw [afterTrace_memRead, hrun]; exact fillSlots_of_not_reached hb
  case cursor => rw [afterTrace_cursor, hrun]
  case latched => rw [afterTrace_latched, hrun]
  case responses => rw [afterTrace_responses, outs_iterationOps restart s.slaveAddr hl hwf hlen]
  case driver =>
    rw [busResults_iterationOps, foldl_observe_iteration hphase, Driver.nextIteration, ← hphase]
    rfl

/-- Settles O39: in each phase a short transfer and an error are a transport fault, other bytes of the expected number are a
mismatch, and a stopped driver ignores every result. -/
theorem driverStopsOnShortTransferOrMismatch : Obligations.DriverStopsOnShortTransferOrMismatch := by
  refine ⟨fun d n hp hn => ?write, fun d hp => ?seek, fun d hp => ?error, fun d bs hwf hp => ?readA,
    fun d bs hp => ?readB, fun d why rs sa hp => ⟨foldl_observe_halted hp rs, ?stopped⟩⟩
  case write => rw [observe_write hp, afterWrite_of_lt _ hn, fail_phase]
  case seek => rw [observe_seek hp, afterWrite_of_lt _ Nat.one_pos, fail_phase]
  case error => rw [observe_error hp, fail_phase]
  case readA =>
    have hlen : (d.params.payload.take d.params.split).length = d.params.split :=
      List.length_take_of_le (split_lt_length hwf).le
    refine ⟨fun hshort => ?_, fun hfull hne => ?_⟩
    · rw [observe_readA hp, afterRead_of_lt (hshort.trans_eq hlen.symm), fail_phase]
    · rw [observe_readA hp, afterRead_of_ne (hfull.trans hlen.symm) hne, fail_phase]
  case readB =>
    have hlen := List.length_drop (i := d.params.split) (l := d.params.payload)
    refine ⟨fun hshort => ?_, fun hfull hne => ?_⟩
    · rw [observe_readB hp, afterRead_of_lt (hshort.trans_eq hlen.symm), fail_phase]
    · rw [observe_readB hp, afterRead_of_ne (hfull.trans hlen.symm) hne, fail_phase]
  case stopped => rw [Driver.nextOp, hp]

/-- Settles O40: 32 times a number is determined modulo 256 by the number modulo 8. -/
theorem driverOffsetsHavePeriodEight : Obligations.DriverOffsetsHavePeriodEight := by
  refine fun p k => ⟨toNat_offset_iterate p k, fun j => ?_⟩
  rw [← BitVec.toNat_inj, toNat_offset_iterate, toNat_offset_iterate]
  omega

end Sys2Proof.Proofs
end
